-- ==== Sys2Proof/Word.lean ====
section
/-! DEFINITION. The word types of HTSC: the 32-bit host word (R20, XLEN = 32), the byte, the 7-bit bus address (R60)
and the 16-bit raw code (R12). -/

namespace Sys2Proof

/-- A host register or command word: `XLEN` = 32 bits (R7, R20). -/
abbrev Word := BitVec 32

/-- One byte: an argument, a wire command byte, a frame byte. -/
abbrev Byte := BitVec 8

/-- A 7-bit two-wire device address (R60). -/
abbrev BusAddr := BitVec 7

/-- A raw 16-bit code `{MSB, LSB}` (R12, R76). -/
abbrev Raw := BitVec 16

end Sys2Proof
end

