-- ==== Sys2Proof/Config.lean ====
section
/-! DEFINITION. What is fixed for the machine: the parameters of R7, and the free values the spec leaves open. An
`opaque` constant has no value Lean can see: a statement about it holds whatever it is. -/

namespace Sys2Proof

/-- `TRANSCENDENTAL_ROUNDING` (R7, R212): how CONV_SVP and CONV_DEW_C round. -/
inductive Rounding
  | faithful
  | nearest
deriving DecidableEq, Repr

/-- `DEV_ADDR` (R7, R30, D31): OPEN, the sensor's 7-bit address, fixed when HTSC is built. -/
opaque Config.devAddr : BusAddr

/-- `T_SETTLE_MS` (R7, R296, D12). -/
def Config.tSettleMs : Nat := 300

/-- `T_RESET_MS` (R7, R146, D13). -/
def Config.tResetMs : Nat := 15

/-- `TRANSCENDENTAL_ROUNDING`: this hardware's value is `faithful` (R7, D19). -/
def Config.rounding : Rounding := .faithful

/-- `U_POR` (R7, R294, D41): OPEN, the reference sensor's user register after power-on or soft reset. HTSC does not
use it. -/
opaque Config.uPor : Byte

/-- `T_POWERUP_MS` (R7, R293, D35): OPEN, a host duty. HTSC does not wait for it and nothing here reads it. -/
opaque Config.tPowerupMs : Nat

/-- FREE VALUE (R212, I1; log entry 6): whether the `n`-th draw of a transcendental conversion takes the upper
neighbour of the exact value. -/
opaque Config.roundUp : Nat → Bool

end Sys2Proof
end

