-- ==== Sys2Proof/Syntax.lean ====
section
/-! DEFINITION. The instructions: one constructor per row of spec/opcode_table.json. -/

namespace Sys2Proof

/-- The 22 host commands (format CMD32, R100, R106), each with its argument byte as written in bits 7:0 of the command
word, legal or not; and the 7 wire command bytes (format WIRE8, R120), of which 0xE6 carries a data byte. -/
inductive Instr
  -- register controller (R140 to R146)
  | readConfig (arg : Byte)
  | writeConfig (arg : Byte)
  | setResolution (arg : Byte)
  | setHeater (arg : Byte)
  | setOtpReload (arg : Byte)
  | isBatteryLow (arg : Byte)
  | softReset (arg : Byte)
  -- measurement sequencer and checksum validator (R175 to R182)
  | measureRawT (arg : Byte)
  | measureRawRh (arg : Byte)
  | getTemperatureC (arg : Byte)
  | getTemperatureF (arg : Byte)
  | getHumidity (arg : Byte)
  | getDewpointC (arg : Byte)
  | getDewpointF (arg : Byte)
  | crcCheck (arg : Byte)
  -- fixed-point converter (R220 to R226)
  | convTempC (arg : Byte)
  | convTempF (arg : Byte)
  | convHumRaw (arg : Byte)
  | convHumComp (arg : Byte)
  | convSvp (arg : Byte)
  | convDewC (arg : Byte)
  | convDewF (arg : Byte)
  -- wire command bytes (R120)
  | wireTrigTHold
  | wireTrigTNohold
  | wireTrigRhHold
  | wireTrigRhNohold
  | wireWriteUserReg (data : Byte)
  | wireReadUserReg
  | wireSoftReset
deriving DecidableEq, Repr

/-- The five kinds of argument byte (R103). -/
inductive ArgKind
  | none
  | byte
  | rescode
  | bool
  | mode
deriving DecidableEq, Repr

/-- A host access as the host bus presents it (R61, R62): byte offset, width in bits and byte enables. -/
structure Access where
  off : Nat
  width : Nat
  lanes : BitVec 4
deriving DecidableEq, Repr

end Sys2Proof
end

