-- ==== Sys2Proof/Machine/Operands.lean ====
section
/-! DEFINITION. Operand forms: the argument kinds and their legal sets (R103, R106), the operand formats of the latched
registers (R104), and the result formats (R105). -/

namespace Sys2Proof.Machine

/-- The argument kind and argument byte of a command (R106); a wire command has none (R120). -/
def argOf : Instr → Option (ArgKind × Byte)
  | .readConfig a => some (.none, a)
  | .writeConfig a => some (.byte, a)
  | .setResolution a => some (.rescode, a)
  | .setHeater a => some (.bool, a)
  | .setOtpReload a => some (.bool, a)
  | .isBatteryLow a => some (.none, a)
  | .softReset a => some (.none, a)
  | .measureRawT a => some (.mode, a)
  | .measureRawRh a => some (.mode, a)
  | .getTemperatureC a => some (.none, a)
  | .getTemperatureF a => some (.none, a)
  | .getHumidity a => some (.none, a)
  | .getDewpointC a => some (.none, a)
  | .getDewpointF a => some (.none, a)
  | .crcCheck a => some (.none, a)
  | .convTempC a => some (.none, a)
  | .convTempF a => some (.none, a)
  | .convHumRaw a => some (.none, a)
  | .convHumComp a => some (.none, a)
  | .convSvp a => some (.none, a)
  | .convDewC a => some (.none, a)
  | .convDewF a => some (.none, a)
  | .wireTrigTHold => none
  | .wireTrigTNohold => none
  | .wireTrigRhHold => none
  | .wireTrigRhNohold => none
  | .wireWriteUserReg _ => none
  | .wireReadUserReg => none
  | .wireSoftReset => none

/-- The legal set of an argument kind (R103). -/
def argLegal : ArgKind → Byte → Bool
  | .none, a => a == 0x00
  | .byte, _ => true
  | .rescode, a => a == 0x00 || a == 0x01 || a == 0x80 || a == 0x81
  | .bool, a => a == 0x00 || a == 0x01
  | .mode, a => a == 0x00 || a == 0x10

/-- `raw16` (R104): the u16 code, if bits 31:16 are zero. -/
def raw16 (w : Word) : Option Raw :=
  if w.extractLsb' 16 16 = 0 then some (w.extractLsb' 0 16) else none

/-- `milli` (R104): `sext_32`, the s32 the pattern spells. -/
def milli (w : Word) : Int := w.toInt

/-- `umhg` (R104): the u32 the pattern spells. -/
def umhg (w : Word) : Nat := w.toNat

/-- A measurement frame as received: MSB, LSB, checksum (R12, R76). -/
structure Frame where
  msb : Byte
  lsb : Byte
  crc : Byte
deriving DecidableEq, Repr

/-- `frame24` (R104): bits 23:16 MSB, 15:8 LSB, 7:0 checksum, if bits 31:24 are zero. -/
def frame24 (w : Word) : Option Frame :=
  if w.extractLsb' 24 8 = 0 then some ⟨w.extractLsb' 16 8, w.extractLsb' 8 8, w.extractLsb' 0 8⟩ else none

/-- A frame as a result word: `zext_32({MSB, LSB, CRC})` (R105). -/
def frameWord (f : Frame) : Word := (f.msb ++ f.lsb ++ f.crc).setWidth 32

/-- A byte as a result word: `zext_32` (R105, `cfg`). -/
def byteWord (b : Byte) : Word := b.setWidth 32

/-- A raw code as a result word: `zext_32` (R105, `raw16`). -/
def rawWord (r : Raw) : Word := r.setWidth 32

/-- An integer result as a 32-bit pattern: `v mod 2^32` (R210). -/
def intWord (v : Int) : Word := BitVec.ofInt 32 v

/-- A Boolean as a result word: 0 or 1 (R105, `bool`). -/
def boolWord (b : Bool) : Word := if b then 1 else 0

end Sys2Proof.Machine
end

