-- ==== Sys2Proof/Machine/Crc.lean ====
section
/-! DEFINITION. The checksum validator's CRC-8 (R173, C6). -/

namespace Sys2Proof.Machine

/-- The CRC divisor, its top bit at bit 23 (R122, R173). -/
def crcDivisor : BitVec 24 := 0x988000

/-- The bit-serial division (R173), `n` iterations still to run: the tested bit is `r[23 - i]` with `i = 16 - n`, that is
`r[n + 7]`; the divisor shifts, the remainder does not. -/
def crcLoop : Nat → BitVec 24 → BitVec 24 → BitVec 24
  | 0, r, _ => r
  | n + 1, r, d => crcLoop n (if r.getLsbD (n + 8) then r ^^^ d else r) (d >>> 1)

/-- The 24-bit remainder after the 16 steps (R173). -/
def crcRem24 (f : Frame) : BitVec 24 := crcLoop 16 (f.msb ++ f.lsb ++ f.crc) crcDivisor

/-- `crc_rem(m, l, c)`: `r[7:0]` (R173). -/
def crcRem (f : Frame) : Byte := (crcRem24 f).extractLsb' 0 8

/-- `crc8(m, l) = crc_rem(m, l, 0x00)` (R173). -/
def crc8 (m l : Byte) : Byte := crcRem ⟨m, l, 0x00⟩

end Sys2Proof.Machine
end

