-- ==== Sys2Proof/Machine/Pow10.lean ====
section
/-! DEFINITION. Comparing an integer with a rational power of ten, exactly. `n` against `10^(a/b)` is `n^b` against
`10^a`; those numbers have thousands of millions of digits, so `powCmp` first brackets `n^b` between two decimal
floating-point numbers and compares the bracket, and computes the powers themselves only where the bracket does not
decide (log entry 12). -/

namespace Sys2Proof.Machine

/-- A bracket: the numbers from `lo * 10^e` to `hi * 10^e`. -/
structure Bracket where
  lo : Nat
  hi : Nat
  e : Nat
deriving DecidableEq, Repr

/-- Drop 40 digits, outward, from a bracket of more than 80. -/
def trim (x : Bracket) : Bracket :=
  if 10 ^ 80 ≤ x.lo then ⟨x.lo / 10 ^ 40, (x.hi + (10 ^ 40 - 1)) / 10 ^ 40, x.e + 40⟩ else x

/-- The product of two brackets. -/
def mulBracket (x y : Bracket) : Bracket := trim (trim ⟨x.lo * y.lo, x.hi * y.hi, x.e + y.e⟩)

/-- A bracket of `n^b` by squaring, for `b < 2^fuel`. -/
def powBracket (n : Nat) : Nat → Nat → Option Bracket
  | 0, b => if b = 0 then some ⟨1, 1, 0⟩ else none
  | fuel + 1, b =>
    if b = 0 then some ⟨1, 1, 0⟩
    else
      match powBracket n fuel (b / 2) with
      | none => none
      | some h =>
        if b % 2 = 1 then some (mulBracket (mulBracket h h) ⟨n, n, 0⟩) else some (mulBracket h h)

/-- A bracket against `10^a`, where it decides. -/
def cmpBracket (x : Bracket) (a : Nat) : Option Ordering :=
  if a < x.e then (if 1 ≤ x.lo then some .gt else none)
  else if 120 ≤ a - x.e then (if x.hi < 10 ^ 120 then some .lt else none)
  else if x.hi < 10 ^ (a - x.e) then some .lt
  else if 10 ^ (a - x.e) < x.lo then some .gt
  else if x.lo = 10 ^ (a - x.e) ∧ x.hi = 10 ^ (a - x.e) then some .eq
  else none

/-- `n^b` against `10^a`. -/
def powCmp (n b a : Nat) : Ordering :=
  match powBracket n 64 b with
  | none => compare (n ^ b) (10 ^ a)
  | some x =>
    match cmpBracket x a with
    | some o => o
    | none => compare (n ^ b) (10 ^ a)

/-- The natural number `n` against the real number `10^(num/den)`, `den > 0`. -/
def cmpPow10 (n : Nat) (num : Int) (den : Nat) : Ordering :=
  if num < 0 then (if n = 0 then .lt else .gt) else powCmp n den num.toNat

/-- The greatest `r` below `base + 2^bits` with `p r`, for a `p` that holds at `base` and, once false, stays false. -/
def searchLast (p : Nat → Bool) : Nat → Nat → Nat
  | 0, base => base
  | bits + 1, base =>
    if p (base + 2 ^ bits) then searchLast p bits (base + 2 ^ bits) else searchLast p bits base

end Sys2Proof.Machine
end

