-- ==== Sys2Proof/Machine/Fixed.lean ====
section
/-! DEFINITION. The fixed-point converter's functions (R210 to R218). Arithmetic is on integers (R9); a value that does
not fit its format is MATH_DOMAIN_ERROR (D20), here `none`. -/

namespace Sys2Proof.Machine

/-- `fits_s32` (R9). -/
def fitsS32 (x : Int) : Bool := decide (-2 ^ 31 ≤ x) && decide (x ≤ 2 ^ 31 - 1)

/-- `fits_u32` (R9). -/
def fitsU32 (x : Int) : Bool := decide (0 ≤ x) && decide (x ≤ 2 ^ 32 - 1)

/-- `rdiv(n, d)`, `d > 0`: nearest, ties toward plus infinity (R211). Lean's `/` on integers is the floor for a positive
divisor. -/
def rdiv (n d : Int) : Int := (2 * n + d) / (2 * d)

/-- TEMPC (R213). -/
def tempC (raw : Raw) : Int := rdiv (raw.toNat * 175720) 65536 - 46850

/-- TEMPF (R214). -/
def tempF (c : Int) : Option Int :=
  if fitsS32 (rdiv (9 * c) 5 + 32000) then some (rdiv (9 * c) 5 + 32000) else none

/-- HUMRAW (R215). -/
def humRaw (raw : Raw) : Int := rdiv (raw.toNat * 125000) 65536 - 6000

/-- HUMCOMP (R216): the band 0..80000 is closed (C5). -/
def humComp (t h : Int) : Option Int :=
  if t < 0 ∨ 80000 < t then
    if fitsS32 (h + rdiv ((t - 25000) * 15) 100) then some (h + rdiv ((t - 25000) * 15) 100) else none
  else some h

/-! ### Rounding of the transcendental conversions (R212) -/

/-- What the rounding needs of the exact real value `x`: `floor x`, `ceil x`, and the nearest integer, ties up. -/
structure Exact where
  floor : Int
  ceil : Int
  nearest : Int
deriving DecidableEq, Repr

/-- The rounded value: under `faithful` some element of `FR(x)` in range, `up` choosing where both neighbours are; under
`nearest` the nearest one, if in range (R212). `none`: the set is empty. -/
def roundExact (mode : Rounding) (up : Bool) (inRange : Int → Bool) (x : Exact) : Option Int :=
  match mode with
  | .faithful =>
    if inRange x.floor then some (if inRange x.ceil && up then x.ceil else x.floor)
    else if inRange x.ceil then some x.ceil
    else none
  | .nearest => if inRange x.nearest then some x.nearest else none

/-! ### The exponents of the two formulas, as exact rationals (R11)

With `D` thousandths of a degree above -235.66 °C, `1762.39 / (D / 1000) = 17623900000 / (10000 * D)`. -/

/-- Numerator over `10000 * |D|` of the exponent of ten in R217's `x`: `8.1332 - 1762.39 / (T + 235.66) + 6`, with
`D = t + 235660`. -/
def svpNum (d : Int) : Int := 141332 * d.natAbs - 17623900000 * d.sign

/-- Denominator of that exponent. -/
def svpDen (d : Int) : Nat := 10000 * d.natAbs

/-- The exact value of R217's `x` (µmmHg), its floor at most `2^33 - 1` (beyond u32 either way); `none` at
`t = -235660`. -/
def svpExact (t : Int) : Option Exact :=
  if t = -235660 then none
  else
    let d := t + 235660
    let r := searchLast (fun n => cmpPow10 n (svpNum d) (svpDen d) != .gt) 33 0
    some {
      floor := r
      ceil := if cmpPow10 r (svpNum d) (svpDen d) = .eq then r else r + 1
      -- x >= r + 1/2 iff 5 * (2 * r + 1) <= 10 * x
      nearest :=
        if cmpPow10 (5 * (2 * r + 1)) (svpNum d + svpDen d) (svpDen d) = .gt then r else r + 1 }

/-- Numerator over `10000 * m` of the exponent of ten in the product `h * p` whose dew point is `m / 2 - 235660`
milli-°C: `11 + 8.1332 - 1762.39 / (T + 235.66)`. -/
def dewNum (m : Nat) : Int := 191332 * m - 35247800000

/-- Denominator of that exponent. -/
def dewDen (m : Nat) : Nat := 10000 * m

/-- The product `h * p` against the one whose dew point is `m / 2 - 235660` milli-°C; every positive product is above it
at `m = 0`. -/
def dewCmp (hp m : Nat) : Ordering := if m = 0 then .gt else cmpPow10 hp (dewNum m) (dewDen m)

/-- The exact value of R218's `x` (milli-°C); `none` for the errors `h * p <= 0` and `den == 0`. For every s32 `h` and
u32 `p` with `h * p > 0`, `den < 0` (R219.4), so `x + 235660` is positive and the search finds it. -/
def dewExact (h p : Int) : Option Exact :=
  if h * p ≤ 0 then none
  else
    let hp := (h * p).toNat
    -- den against 0: log10 (h * p) against 11 + 8.1332
    if powCmp hp 10000 191332 ≠ .lt then none
    else
      let d := searchLast (fun n => dewCmp hp (2 * n) != .lt) 24 0
      some {
        floor := (d : Int) - 235660
        ceil := if dewCmp hp (2 * d) = .eq then (d : Int) - 235660 else (d : Int) - 235659
        nearest := if dewCmp hp (2 * d + 1) = .lt then (d : Int) - 235660 else (d : Int) - 235659 }

/-- SVP with the draw `up` (R217). -/
def svp (up : Bool) (t : Int) : Option Int := (svpExact t).bind (roundExact Config.rounding up fitsU32)

/-- DEW with the draw `up` (R218). -/
def dew (up : Bool) (h p : Int) : Option Int := (dewExact h p).bind (roundExact Config.rounding up fitsS32)

end Sys2Proof.Machine
end

