-- ==== Sys2Proof/WellFormed.lean ====
section
/-! DEFINITION. What is well formed: an instruction whose argument byte lies in its kind's legal set (R103), and a host
access the spec defines (R61, R62). An ill-formed command still runs: it ends with INVALID_ARGUMENT (R251). -/

namespace Sys2Proof

/-- The argument is in the legal set of the command's kind (R103, R106); wire commands take any data byte (R120). -/
def Instr.wellFormed (i : Instr) : Bool :=
  match Machine.argOf i with
  | some (kind, arg) => Machine.argLegal kind arg
  | none => true

/-- An aligned 32-bit access with all byte lanes inside the register space (R61, R62). -/
def Access.wellFormed (a : Access) : Bool :=
  decide (a.off % 4 = 0) && decide (a.off ≤ 0x3C) && decide (a.width = 32) && a.lanes == 0xF

end Sys2Proof
end

