-- ==== Sys2Proof/Decode.lean ====
section
/-! DEFINITION. The decoders of the two encodings (R100 to R108, R120), total and rejecting by name, and after them the
encoder, written from the same tables. -/

namespace Sys2Proof

/-- Why a word or a wire byte sequence is no instruction. -/
inductive DecodeError
  /-- `w[31:16] != 0` (R101). -/
  | reservedBits
  /-- `w[15:8]` is none of the 22 opcodes (R102). -/
  | unassignedOpcode (opcode : Byte)
  /-- A first byte outside the seven wire command bytes (R72, R120). -/
  | unknownWireByte (b : Byte)
  /-- The bytes end before the wire command does. -/
  | missingByte
deriving DecidableEq, Repr

/-- The opcode field `w[15:8]` (R100). -/
def opcodeOf (w : Word) : Byte := w.extractLsb' 8 8

/-- The argument field `w[7:0]` (R100). -/
def argByteOf (w : Word) : Byte := w.extractLsb' 0 8

/-- The opcode map (R106); `none` for an unassigned opcode (R102). -/
def opcodeInstr (opcode arg : Byte) : Option Instr :=
  match opcode.toNat with
  | 0x01 => some (.readConfig arg)
  | 0x02 => some (.writeConfig arg)
  | 0x03 => some (.setResolution arg)
  | 0x04 => some (.setHeater arg)
  | 0x05 => some (.setOtpReload arg)
  | 0x06 => some (.isBatteryLow arg)
  | 0x07 => some (.softReset arg)
  | 0x10 => some (.measureRawT arg)
  | 0x11 => some (.measureRawRh arg)
  | 0x12 => some (.getTemperatureC arg)
  | 0x13 => some (.getTemperatureF arg)
  | 0x14 => some (.getHumidity arg)
  | 0x15 => some (.getDewpointC arg)
  | 0x16 => some (.getDewpointF arg)
  | 0x17 => some (.crcCheck arg)
  | 0x20 => some (.convTempC arg)
  | 0x21 => some (.convTempF arg)
  | 0x22 => some (.convHumRaw arg)
  | 0x23 => some (.convHumComp arg)
  | 0x24 => some (.convSvp arg)
  | 0x25 => some (.convDewC arg)
  | 0x26 => some (.convDewF arg)
  | _ => none

/-- A command word: reserved bits first, then the opcode (R101, R102, R257). -/
def decodeCmd (w : Word) : Except DecodeError Instr :=
  if w.extractLsb' 16 16 ≠ 0 then .error .reservedBits
  else
    match opcodeInstr (opcodeOf w) (argByteOf w) with
    | some i => .ok i
    | none => .error (.unassignedOpcode (opcodeOf w))

/-- A wire command at the head of the bytes going out, with the bytes left over (R120). -/
def decodeWire : List Byte → Except DecodeError (Instr × List Byte)
  | [] => .error .missingByte
  | b :: rest =>
    match b.toNat with
    | 0xE3 => .ok (.wireTrigTHold, rest)
    | 0xF3 => .ok (.wireTrigTNohold, rest)
    | 0xE5 => .ok (.wireTrigRhHold, rest)
    | 0xF5 => .ok (.wireTrigRhNohold, rest)
    | 0xE6 =>
      match rest with
      | [] => .error .missingByte
      | d :: rest' => .ok (.wireWriteUserReg d, rest')
    | 0xE7 => .ok (.wireReadUserReg, rest)
    | 0xFE => .ok (.wireSoftReset, rest)
    | _ => .error (.unknownWireByte b)

/-- An encoded instruction: a command word, or the bytes of a wire write. -/
inductive Encoded
  | cmd (w : Word)
  | wire (bytes : List Byte)
deriving DecidableEq, Repr

/-- A command word from its opcode and argument: `(opcode << 8) | arg`, reserved bits zero (R100, R130). -/
def cmdWord (opcode arg : Byte) : Word := (opcode ++ arg).setWidth 32

/-- The encoder (R106, R120). -/
def encode : Instr → Encoded
  | .readConfig a => .cmd (cmdWord 0x01 a)
  | .writeConfig a => .cmd (cmdWord 0x02 a)
  | .setResolution a => .cmd (cmdWord 0x03 a)
  | .setHeater a => .cmd (cmdWord 0x04 a)
  | .setOtpReload a => .cmd (cmdWord 0x05 a)
  | .isBatteryLow a => .cmd (cmdWord 0x06 a)
  | .softReset a => .cmd (cmdWord 0x07 a)
  | .measureRawT a => .cmd (cmdWord 0x10 a)
  | .measureRawRh a => .cmd (cmdWord 0x11 a)
  | .getTemperatureC a => .cmd (cmdWord 0x12 a)
  | .getTemperatureF a => .cmd (cmdWord 0x13 a)
  | .getHumidity a => .cmd (cmdWord 0x14 a)
  | .getDewpointC a => .cmd (cmdWord 0x15 a)
  | .getDewpointF a => .cmd (cmdWord 0x16 a)
  | .crcCheck a => .cmd (cmdWord 0x17 a)
  | .convTempC a => .cmd (cmdWord 0x20 a)
  | .convTempF a => .cmd (cmdWord 0x21 a)
  | .convHumRaw a => .cmd (cmdWord 0x22 a)
  | .convHumComp a => .cmd (cmdWord 0x23 a)
  | .convSvp a => .cmd (cmdWord 0x24 a)
  | .convDewC a => .cmd (cmdWord 0x25 a)
  | .convDewF a => .cmd (cmdWord 0x26 a)
  | .wireTrigTHold => .wire [0xE3]
  | .wireTrigTNohold => .wire [0xF3]
  | .wireTrigRhHold => .wire [0xE5]
  | .wireTrigRhNohold => .wire [0xF5]
  | .wireWriteUserReg d => .wire [0xE6, d]
  | .wireReadUserReg => .wire [0xE7]
  | .wireSoftReset => .wire [0xFE]

/-- Decoding an encoded instruction; a wire write carries exactly one command. -/
def decode : Encoded → Except DecodeError Instr
  | .cmd w => decodeCmd w
  | .wire bytes =>
    match decodeWire bytes with
    | .ok (i, []) => .ok i
    | .ok (_, b :: _) => .error (.unknownWireByte b)
    | .error e => .error e

/-- The bytes of a wire instruction numbered as the opcode table numbers them: the command byte is bits 7:0, the data
byte that may follow is bits 15:8 (log entry 9). -/
def tableWireBytes (w : Nat) : List Byte := [BitVec.ofNat 8 w, BitVec.ofNat 8 (w / 2 ^ 8)]

/-- The instruction the decoder reads from a table word: the CMD32 rows have 32 bits, the WIRE8 rows 8 (a data byte
follows 0xE6, zero where the table gives it no bits). -/
def decodeTableWord (nbits w : Nat) : Option Instr :=
  if nbits ≤ 16 then
    match decodeWire (tableWireBytes w) with
    | .ok (i, _) => some i
    | .error _ => none
  else
    match decodeCmd (BitVec.ofNat 32 w) with
    | .ok i => some i
    | .error _ => none

end Sys2Proof
end

