-- ==== Sys2Proof/Machine/State.lean ====
section
/-! DEFINITION. The state of HTSC as plain data (R20 to R46, R69), the inputs the other agents send it (R14), the state
after reset (R43, R290), and the reasons a step can stop. -/

namespace Sys2Proof.Machine

/-- The error codes STATUS.ERR can hold (R26, R250). Codes 6 and 7 are never written, so they have no constructor. -/
inductive ErrCode
  | none
  | invalidArgument
  | busError
  | checksumMismatch
  | mathDomainError
  | illegalCommand
deriving DecidableEq, Repr

/-- A transport transaction as a command's pseudocode names it, the address left out (R10, R66). -/
inductive BusOp
  | write1 (b : Byte)
  | write2 (c d : Byte)
  | read1
  | sleep (ms : Nat)
deriving DecidableEq, Repr

/-- A transport transaction as issued, with the address it carries (R66, R71); `sleep` puts nothing on the wire. -/
inductive Txn
  | write1 (a : BusAddr) (b : Byte)
  | write2 (a : BusAddr) (c d : Byte)
  | read1 (a : BusAddr)
  | sleep (ms : Nat)
deriving DecidableEq, Repr

/-- The response to a transaction: `ok`, `ok(byte)` or `err` (R66, R67). -/
inductive Answer
  | ok
  | okByte (b : Byte)
  | err
deriving DecidableEq, Repr

/-- An event of the transport trace (R69): the span's two ends, a transaction issued, and its answer. -/
inductive BusEvent
  | acquire
  | release
  | issue (t : Txn)
  | answer (a : Answer)
deriving DecidableEq, Repr

/-- The transport port. At most one transaction is outstanding (R70). -/
inductive Port
  /-- No transaction. -/
  | idle
  /-- The sequencer asks for this transaction and the port has not driven it yet (inside one sequencer step only). -/
  | requested (op : BusOp)
  /-- Issued and not yet answered (R41, R68). -/
  | outstanding (t : Txn)
deriving DecidableEq, Repr

/-- The sequencer (R41): IDLE, or RUN with the answers the command's transactions have had so far, oldest first. Their
number is `SEQ.step` (R35), and every working value of the command is a function of them (log entry 4). -/
inductive Seq
  | idle
  | run (got : List Answer)
deriving DecidableEq, Repr

/-- What the other agents do to HTSC (R14), one input a step. -/
inductive Input
  /-- Nothing arrives: HTSC itself moves. -/
  | tick
  /-- `HostRead` (R61). -/
  | hostRead (a : Access)
  /-- `HostWrite` (R61). -/
  | hostWrite (a : Access) (v : Word)
  /-- The transport answers the outstanding transaction (R67): its error line and its data byte. -/
  | answer (err : Bool) (byte : Byte)
  /-- The platform's reset input (R290, R291). -/
  | reset
deriving DecidableEq, Repr

/-- The state of HTSC. Below the line: what is the model's own or the spec's modelling device. -/
structure State where
  /-- DEVADDR (R30), the low 7 bits; fixed when HTSC is built. -/
  devaddr : BusAddr
  /-- `L.cmd` (R40), which a CMD read returns (R21). -/
  lCmd : Word
  /-- `L.ctrl` (R40). -/
  lCtrl : Word
  /-- `L.opa` (R40). -/
  lOpa : Word
  /-- `L.opb` (R40). -/
  lOpb : Word
  /-- `L.opc` (R40). -/
  lOpc : Word
  /-- STATUS.BUSY (R23). -/
  busy : Bool
  /-- STATUS.DONE (R24). -/
  done : Bool
  /-- STATUS.COLLISION (R25). -/
  collision : Bool
  /-- STATUS.ERR (R26). -/
  err : ErrCode
  /-- CTRL (R27). -/
  ctrl : Word
  /-- OPA (R32). -/
  opa : Word
  /-- OPB (R32). -/
  opb : Word
  /-- OPC (R32). -/
  opc : Word
  /-- RES0 (R31). -/
  res0 : Word
  /-- RES1 (R31). -/
  res1 : Word
  /-- SEQ (R41). -/
  seq : Seq
  /-- `bus_held` (R69). -/
  busHeld : Bool
  /-- The transport port (R41, R70). -/
  port : Port
  /-- The transport trace (R69), oldest event first: a modelling device of the spec (R267). -/
  trace : List BusEvent
  /-- MODEL: what the other agents do next, soonest first (log entry 1). -/
  inputs : List Input
  /-- MODEL: the word the host's last read returned (log entry 7). -/
  rdata : Word
  /-- MODEL: how many rounding draws have been taken (log entry 6). -/
  draws : Nat
deriving DecidableEq, Repr

/-- HTSC right after reset (R43, R290): DEVADDR is `DEV_ADDR`, SEQ is IDLE, the bus is not held, everything else 0. The
trace is empty and no input waits (log entries 1, 7, 8). -/
def State.reset : State where
  devaddr := Config.devAddr
  lCmd := 0x00000000
  lCtrl := 0x00000000
  lOpa := 0x00000000
  lOpb := 0x00000000
  lOpc := 0x00000000
  busy := false
  done := false
  collision := false
  err := .none
  ctrl := 0x00000000
  opa := 0x00000000
  opb := 0x00000000
  opc := 0x00000000
  res0 := 0x00000000
  res1 := 0x00000000
  seq := .idle
  busHeld := false
  port := .idle
  trace := []
  inputs := []
  rdata := 0x00000000
  draws := 0

/-- Why a step can stop. HTSC's own errors are no faults: they end a command and HTSC goes on (R254, R261). -/
inductive Fault
  /-- Raised by the port (`drivePort`) when the request it holds is none of the seven wire commands of R120: HTSC never
  sends another command byte (R72), so the spec gives no behaviour. SAFE: no reachable state holds one (log entry 13). -/
  | unknownWireCommand (op : BusOp)
deriving DecidableEq, Repr

/-- Why a step has no meaning. -/
inductive Refusal
  /-- Raised by an arm of `exec` for an instruction that is not modelled. SAFE. No arm raises it. -/
  | notModelled (mnemonic : String)
  /-- Raised by `hostRead` and `hostWrite` for an access that is misaligned, outside 0x00..0x3C, not 32 bits wide or with
  partial byte enables: "A model refuses it: the host agent has no step for it" (R62, I7). SAFE (log entry 14). -/
  | undefinedHostAccess (a : Access)
deriving DecidableEq, Repr

end Sys2Proof.Machine
end

