-- ==== Sys2Proof/Machine/Flags.lean ====
section
/-! DEFINITION. The flags: HTSC's only ones are the fields of STATUS (R22 to R26, R36), and the two fields of CTRL
(R27 to R29). -/

namespace Sys2Proof.Machine

/-- The code of an error (R26, R250). -/
def errBits : ErrCode → BitVec 3
  | .none => 0
  | .invalidArgument => 1
  | .busError => 2
  | .checksumMismatch => 3
  | .mathDomainError => 4
  | .illegalCommand => 5

/-- STATUS as a host reads it (R22): BUSY in bit 0, DONE in bit 1, COLLISION in bit 2, ERR in bits 6:4, the rest 0. -/
def statusWord (s : State) : Word :=
  (0#25 ++ errBits s.err ++ 0#1 ++ BitVec.ofBool s.collision ++ BitVec.ofBool s.done ++ BitVec.ofBool s.busy)

/-- The bits of CTRL a write keeps: CRC_EN and NOHOLD (R27, D39). -/
def ctrlMask : Word := 0x00000011

/-- `L.ctrl[0]`: the running command checks its frames (R28, R174). -/
def crcEnabled (s : State) : Bool := s.lCtrl.getLsbD 0

/-- `L.ctrl & 0x10`: the mode byte of the GET_* commands (R29, R170). -/
def modeByte (s : State) : Byte := (s.lCtrl &&& 0x00000010).setWidth 8

end Sys2Proof.Machine
end

