-- ==== Sys2Proof/Machine/Ops.lean ====
section
/-! DEFINITION. The named operations over the state: acceptance (R45, R46), the end of a command with an error (R254, the
spec's trap entry) or with success (R31), the transport port (R66 to R71), the host's accesses (R61 to R65) and the reset
input (R290, R291). HTSC has no memory (R10). -/

namespace Sys2Proof.Machine

/-! ### The bus span -/

/-- ACQUIRE, if the bus is not held yet (R69). -/
def acquireBus (s : State) : State :=
  { s with trace := if s.busHeld then s.trace else s.trace ++ [.acquire], busHeld := true }

/-- RELEASE, if the bus is held (R69, R254). -/
def releaseBus (s : State) : State :=
  { s with trace := if s.busHeld then s.trace ++ [.release] else s.trace, busHeld := false }

/-! ### Ending a command -/

/-- `finish(code)` (R254): the whole of HTSC's trap entry. Only the code is saved; RES0, RES1, CTRL, OPA to OPC, CMD's
read value and COLLISION stay; control goes nowhere. -/
def finish (code : ErrCode) (s : State) : State :=
  { releaseBus s with err := code, busy := false, done := true, seq := .idle }

/-- `finish_ok(r0, r1)` (R31). -/
def finishOk (r0 r1 : Word) (s : State) : State :=
  { releaseBus s with
    res0 := r0, res1 := r1, err := .none, busy := false, done := true, seq := .idle }

/-! ### Accepting a command (there is no return from a trap: the next acceptance clears it, R259) -/

/-- Acceptance of a CMD write while BUSY = 0 (R45). No transaction happens in this step. -/
def accept (w : Word) (s : State) : State :=
  { s with
    lCmd := w, lCtrl := s.ctrl, lOpa := s.opa, lOpb := s.opb, lOpc := s.opc,
    busy := true, done := false, collision := false, err := .none,
    seq := .run [] }

/-- Rejection of a CMD write while BUSY = 1 (R46): its only effect. -/
def reject (s : State) : State := { s with collision := true }

/-- A CMD write (R21). -/
def writeCmd (w : Word) (s : State) : State := if s.busy then reject s else accept w s

/-! ### The transport port -/

/-- The transaction with the address it carries, DEV_ADDR (R66, R71). -/
def addressed (a : BusAddr) : BusOp → Txn
  | .write1 b => .write1 a b
  | .write2 c d => .write2 a c d
  | .read1 => .read1 a
  | .sleep ms => .sleep ms

/-- The sequencer reaches a `Bus.*` transaction of its pseudocode and hands it to the port (R41). -/
def request (op : BusOp) (s : State) : State := { s with port := .requested op }

/-- The port drives a transaction: ACQUIRE before the first one of a command (R69), then the transaction is issued with
the device's address (R71) and is outstanding (R70). -/
def issue (op : BusOp) (s : State) : State :=
  { acquireBus s with
    trace := (acquireBus s).trace ++ [.issue (addressed s.devaddr op)],
    port := .outstanding (addressed s.devaddr op) }

/-- `issue`, unless a transaction is already outstanding: only one is outstanding at a time (R70), so HTSC waits. -/
def transmit (op : BusOp) (s : State) : State :=
  match s.port with
  | .outstanding _ => s
  | .idle => issue op s
  | .requested _ => issue op s

/-- The response a transaction gets when the transport answers (R66, R67): a read's `ok` carries a byte, a write's does
not, and a sleep always answers `ok`. -/
def responseOf (t : Txn) (err : Bool) (byte : Byte) : Answer :=
  match t with
  | .write1 _ _ => if err then .err else .ok
  | .write2 _ _ _ => if err then .err else .ok
  | .read1 _ => if err then .err else .okByte byte
  | .sleep _ => .ok

/-- `SEQ.step` moves past the answered transaction (R41); an idle sequencer takes nothing. -/
def advanceSeq (a : Answer) : Seq → Seq
  | .idle => .idle
  | .run got => .run (got ++ [a])

/-- The transport answers the outstanding transaction (R41, R67). With none outstanding the answer is discarded (R291). -/
def answerTxn (err : Bool) (byte : Byte) (s : State) : State :=
  match s.port with
  | .outstanding t =>
    { s with
      port := .idle
      trace := s.trace ++ [.answer (responseOf t err byte)]
      seq := advanceSeq (responseOf t err byte) s.seq }
  | .idle => s
  | .requested _ => s

/-! ### Reset -/

/-- The reset input (R290, R291): every register takes its reset value, a running command is abandoned, RELEASE is
recorded if the bus was held, and an outstanding transaction's answer will be discarded. The trace, the host's last read
word, the draw counter and the inputs still to come are not HTSC's, and DEVADDR is fixed (log entry 8). -/
def resetInput (s : State) : State :=
  { State.reset with
    devaddr := s.devaddr
    trace := (releaseBus s).trace
    inputs := s.inputs
    rdata := s.rdata
    draws := s.draws }

/-! ### Working values (R41) -/

/-- `SEQ.step` (R35): how many of the running command's transactions have been answered. -/
def seqStep : Seq → Option Nat
  | .idle => none
  | .run got => some got.length

/-- `cfg_old` (R41, R147): the byte the register read of a running register-controller command returned. -/
def cfgOld : Seq → Option Byte
  | .run (_ :: .okByte v :: _) => some v
  | _ => none

/-- `frame` (R41, R171): the frame of the running command's `k`-th acquisition, once its three bytes are read. -/
def frameAt (k : Nat) : Seq → Option Frame
  | .idle => none
  | .run got =>
    match got.drop (5 * k) with
    | _ :: _ :: .okByte m :: .okByte l :: .okByte c :: _ => some ⟨m, l, c⟩
    | _ => none

end Sys2Proof.Machine
end

