-- ==== Sys2Proof/Machine/Prog.lean ====
section
/-! DEFINITION. A command's pseudocode as a term, and one sequencer step of it (R35, R41). A term is not kept in the
state: it is a function of the command word and the latches, and the state keeps the answers received so far. -/

namespace Sys2Proof.Machine

/-- The pseudocode of a command from some position on: the next transport transaction and what follows its answer, a
rounding draw (R212), or the end (R10). -/
inductive Prog
  | bus (op : BusOp) (next : Answer → Prog)
  | draw (next : Bool → Prog)
  | finish (code : ErrCode)
  | finishOk (r0 r1 : Word)

/-- The rest of the pseudocode after the answers received so far: the position `SEQ.step` (R35). -/
def Prog.resume : Prog → List Answer → Prog
  | p, [] => p
  | .bus _ next, a :: got => (next a).resume got
  | .draw next, _ :: _ => .draw next
  | .finish code, _ :: _ => .finish code
  | .finishOk r0 r1, _ :: _ => .finishOk r0 r1

/-- Run the pseudocode up to the next transaction, or to its end (R41). A draw takes the next free value (R212); it leaves
the port alone, since a command's conversions come after all of its bus traffic (R255, D45). -/
def Prog.run : Prog → State → State
  | .bus op _, s => request op s
  | .draw next, s =>
    { (next (Config.roundUp s.draws)).run { s with draws := s.draws + 1 } with port := s.port }
  | .finish code, s => Machine.finish code s
  | .finishOk r0 r1, s => Machine.finishOk r0 r1 s

/-- One sequencer step of the command whose pseudocode is `p` (R41). The sequencer takes no step when IDLE, and waits
while a transaction is not answered. -/
def sequence (p : Prog) (s : State) : State :=
  match s.seq with
  | .idle => s
  | .run got =>
    match s.port with
    | .idle => (p.resume got).run s
    | .requested _ => s
    | .outstanding _ => s

/-! ### The phrases of the pseudocode -/

/-- `if arg not legal: finish(INVALID_ARGUMENT)` (R103, R149, R251). -/
def checkArg (kind : ArgKind) (arg : Byte) (p : Prog) : Prog :=
  if argLegal kind arg then p else .finish .invalidArgument

/-- An operand read in its format: out of range is INVALID_ARGUMENT (R104, R251). -/
def operand {α : Type} (o : Option α) (k : α → Prog) : Prog :=
  match o with
  | some x => k x
  | none => .finish .invalidArgument

/-- A conversion's value: none is MATH_DOMAIN_ERROR (R255). -/
def conversion {α : Type} (o : Option α) (k : α → Prog) : Prog :=
  match o with
  | some x => k x
  | none => .finish .mathDomainError

/-- `if Bus.write1(DEV_ADDR, b) == err: finish(BUS_ERROR)` (R66, R252). -/
def busWrite1 (b : Byte) (k : Prog) : Prog :=
  .bus (.write1 b) fun a =>
    match a with
    | .ok => k
    | .okByte _ => k
    | .err => .finish .busError

/-- `if Bus.write2(DEV_ADDR, c, d) == err: finish(BUS_ERROR)` (R66, R252). -/
def busWrite2 (c d : Byte) (k : Prog) : Prog :=
  .bus (.write2 c d) fun a =>
    match a with
    | .ok => k
    | .okByte _ => k
    | .err => .finish .busError

/-- `r = Bus.read1(DEV_ADDR); if r == err: finish(BUS_ERROR)` (R66, R252). A read's `ok` always carries a byte
(`responseOf`), so the bare `ok` case is never met (log entry 10). -/
def busRead1 (k : Byte → Prog) : Prog :=
  .bus .read1 fun a =>
    match a with
    | .okByte b => k b
    | .ok => .finish .busError
    | .err => .finish .busError

/-- `Bus.sleep(ms)`: always `ok` (R66). -/
def busSleep (ms : Nat) (k : Prog) : Prog := .bus (.sleep ms) fun _ => k

end Sys2Proof.Machine
end

