-- ==== Sys2Proof/Machine/Measurement.lean ====
section
/-! DEFINITION. The measurement command sequencer with checksum validator (R170 to R185). -/

namespace Sys2Proof.Machine

/-- The quantity measured (R171). -/
inductive Quantity
  | t
  | rh
deriving DecidableEq, Repr

/-- `base(kind)` (R121). -/
def triggerBase : Quantity → Byte
  | .t => 0xE3
  | .rh => 0xE5

/-- The measurement command byte (R121, R171 step 1). -/
def triggerByte (q : Quantity) (mode : Byte) : Byte := triggerBase q ||| mode

/-- `STATUS_MASK` (R122). -/
def statusMask : Raw := 0xFFFC

/-- The raw word: MSB first, bits 1:0 cleared (R76, R172). -/
def maskRaw (f : Frame) : Raw := (f.msb ++ f.lsb) &&& statusMask

/-- `acquire(kind, mode)` (R171): five transactions, then the check if the latched CRC_EN is set (R174). Neither the
status bits nor the value's range are checked (R183). -/
def acquire (q : Quantity) (mode : Byte) (s : State) (k : Raw → Frame → Prog) : Prog :=
  busWrite1 (triggerByte q mode)
    (busSleep Config.tSettleMs
      (busRead1 fun m =>
        busRead1 fun l =>
          busRead1 fun c =>
            if crcEnabled s ∧ crcRem ⟨m, l, c⟩ ≠ 0 then .finish .checksumMismatch
            else k (maskRaw ⟨m, l, c⟩) ⟨m, l, c⟩))

/-- `SVP(t)` inside a command: its own draw, then the range check (R212, R217). -/
def progSvp (t : Int) (k : Int → Prog) : Prog := .draw fun up => conversion (svp up t) k

/-- `DEW(h, p)` inside a command: its own draw, then the range check (R212, R218). -/
def progDew (h p : Int) (k : Int → Prog) : Prog := .draw fun up => conversion (dew up h p) k

/-! ### The commands' pseudocode -/

/-- R175 -/
def measureRawT (arg : Byte) (s : State) : Prog :=
  checkArg .mode arg (acquire .t arg s fun raw fr => .finishOk (rawWord raw) (frameWord fr))

/-- R176 -/
def measureRawRh (arg : Byte) (s : State) : Prog :=
  checkArg .mode arg (acquire .rh arg s fun raw fr => .finishOk (rawWord raw) (frameWord fr))

/-- R177 -/
def getTemperatureC (arg : Byte) (s : State) : Prog :=
  checkArg .none arg (acquire .t (modeByte s) s fun rt fr => .finishOk (intWord (tempC rt)) (frameWord fr))

/-- R178 -/
def getTemperatureF (arg : Byte) (s : State) : Prog :=
  checkArg .none arg
    (acquire .t (modeByte s) s fun rt fr =>
      conversion (tempF (tempC rt)) fun v => .finishOk (intWord v) (frameWord fr))

/-- R179: temperature first, then humidity (R185, D23). -/
def getHumidity (arg : Byte) (s : State) : Prog :=
  checkArg .none arg
    (acquire .t (modeByte s) s fun rt _ =>
      acquire .rh (modeByte s) s fun rh f2 =>
        conversion (humComp (tempC rt) (humRaw rh)) fun h => .finishOk (intWord h) (frameWord f2))

/-- The shared body of the dew-point getters (R180, R181): three acquisitions, then SVP and DEW, in that order. -/
def dewpoint (s : State) (k : Int → Frame → Prog) : Prog :=
  acquire .t (modeByte s) s fun ra _ =>
    acquire .t (modeByte s) s fun rb _ =>
      acquire .rh (modeByte s) s fun rh f3 =>
        conversion (humComp (tempC rb) (humRaw rh)) fun h =>
          progSvp (tempC ra) fun p =>
            progDew h p fun d => k d f3

/-- R180 -/
def getDewpointC (arg : Byte) (s : State) : Prog :=
  checkArg .none arg (dewpoint s fun d f3 => .finishOk (intWord d) (frameWord f3))

/-- R181 -/
def getDewpointF (arg : Byte) (s : State) : Prog :=
  checkArg .none arg
    (dewpoint s fun d f3 => conversion (tempF d) fun v => .finishOk (intWord v) (frameWord f3))

/-- R182: no bus traffic; CRC_EN has no effect. -/
def crcCheck (arg : Byte) (s : State) : Prog :=
  checkArg .none arg (operand (frame24 s.lOpa) fun f => .finishOk (byteWord (crcRem f)) 0)

/-! ### Meanings: one sequencer step of each -/

/-- MEASURE_RAW_T (R175). -/
def execMeasureRawT (arg : Byte) (s : State) : Host.Outcome State Fault Refusal :=
  .next (sequence (measureRawT arg s) s)

/-- MEASURE_RAW_RH (R176). -/
def execMeasureRawRh (arg : Byte) (s : State) : Host.Outcome State Fault Refusal :=
  .next (sequence (measureRawRh arg s) s)

/-- GET_TEMPERATURE_C (R177). -/
def execGetTemperatureC (arg : Byte) (s : State) : Host.Outcome State Fault Refusal :=
  .next (sequence (getTemperatureC arg s) s)

/-- GET_TEMPERATURE_F (R178). -/
def execGetTemperatureF (arg : Byte) (s : State) : Host.Outcome State Fault Refusal :=
  .next (sequence (getTemperatureF arg s) s)

/-- GET_HUMIDITY (R179). -/
def execGetHumidity (arg : Byte) (s : State) : Host.Outcome State Fault Refusal :=
  .next (sequence (getHumidity arg s) s)

/-- GET_DEWPOINT_C (R180). -/
def execGetDewpointC (arg : Byte) (s : State) : Host.Outcome State Fault Refusal :=
  .next (sequence (getDewpointC arg s) s)

/-- GET_DEWPOINT_F (R181). -/
def execGetDewpointF (arg : Byte) (s : State) : Host.Outcome State Fault Refusal :=
  .next (sequence (getDewpointF arg s) s)

/-- CRC_CHECK (R182). -/
def execCrcCheck (arg : Byte) (s : State) : Host.Outcome State Fault Refusal :=
  .next (sequence (crcCheck arg s) s)

end Sys2Proof.Machine
end

