-- ==== Sys2Proof/Machine/Converter.lean ====
section
/-! DEFINITION. The converter commands (R220 to R226): no bus traffic, one sequencer step after acceptance, RES1 = 0. -/

namespace Sys2Proof.Machine

/-! ### The commands' pseudocode -/

/-- R220: the operand is not masked. -/
def convTempC (arg : Byte) (s : State) : Prog :=
  checkArg .none arg (operand (raw16 s.lOpa) fun raw => .finishOk (intWord (tempC raw)) 0)

/-- R221 -/
def convTempF (arg : Byte) (s : State) : Prog :=
  checkArg .none arg (conversion (tempF (milli s.lOpa)) fun v => .finishOk (intWord v) 0)

/-- R222 -/
def convHumRaw (arg : Byte) (s : State) : Prog :=
  checkArg .none arg (operand (raw16 s.lOpa) fun raw => .finishOk (intWord (humRaw raw)) 0)

/-- R223 -/
def convHumComp (arg : Byte) (s : State) : Prog :=
  checkArg .none arg
    (conversion (humComp (milli s.lOpa) (milli s.lOpb)) fun v => .finishOk (intWord v) 0)

/-- R224 -/
def convSvp (arg : Byte) (s : State) : Prog :=
  checkArg .none arg (progSvp (milli s.lOpa) fun p => .finishOk (intWord p) 0)

/-- R225: OPA is accepted and ignored (D22). -/
def convDewC (arg : Byte) (s : State) : Prog :=
  checkArg .none arg (progDew (milli s.lOpb) (umhg s.lOpc) fun d => .finishOk (intWord d) 0)

/-- R226: the same function as R221. -/
def convDewF (arg : Byte) (s : State) : Prog :=
  checkArg .none arg (conversion (tempF (milli s.lOpa)) fun v => .finishOk (intWord v) 0)

/-! ### Meanings: the one sequencer step of each -/

/-- CONV_TEMP_C (R220). -/
def execConvTempC (arg : Byte) (s : State) : Host.Outcome State Fault Refusal :=
  .next (sequence (convTempC arg s) s)

/-- CONV_TEMP_F (R221). -/
def execConvTempF (arg : Byte) (s : State) : Host.Outcome State Fault Refusal :=
  .next (sequence (convTempF arg s) s)

/-- CONV_HUM_RAW (R222). -/
def execConvHumRaw (arg : Byte) (s : State) : Host.Outcome State Fault Refusal :=
  .next (sequence (convHumRaw arg s) s)

/-- CONV_HUM_COMP (R223). -/
def execConvHumComp (arg : Byte) (s : State) : Host.Outcome State Fault Refusal :=
  .next (sequence (convHumComp arg s) s)

/-- CONV_SVP (R224). -/
def execConvSvp (arg : Byte) (s : State) : Host.Outcome State Fault Refusal :=
  .next (sequence (convSvp arg s) s)

/-- CONV_DEW_C (R225). -/
def execConvDewC (arg : Byte) (s : State) : Host.Outcome State Fault Refusal :=
  .next (sequence (convDewC arg s) s)

/-- CONV_DEW_F (R226). -/
def execConvDewF (arg : Byte) (s : State) : Host.Outcome State Fault Refusal :=
  .next (sequence (convDewF arg s) s)

end Sys2Proof.Machine
end

