-- ==== Sys2Proof/Machine/RegisterController.lean ====
section
/-! DEFINITION. The register controller commands (R140 to R149). -/

namespace Sys2Proof.Machine

/-! ### Constants (R120, R122) -/

def wireReadReg : Byte := 0xE7
def wireWriteReg : Byte := 0xE6
def wireReset : Byte := 0xFE
def resKeep : Byte := 0x7E
def heaterKeep : Byte := 0xFB
def heaterOn : Byte := 0x04
def otpKeep : Byte := 0xFD
def otpDisable : Byte := 0x02
def battMask : Byte := 0x40
def resField : Byte := 0x81

/-! ### Field readings of a user-register byte (R148) -/

def resolutionOf (cfg : Byte) : Byte := cfg &&& resField
def batteryLowOf (cfg : Byte) : Bool := cfg &&& battMask != 0
def heaterOnOf (cfg : Byte) : Bool := cfg &&& heaterOn != 0
def otpReloadEnabledOf (cfg : Byte) : Bool := cfg &&& otpDisable == 0

/-- The bit widths of the resolution field's four codes, temperature and humidity (R38). No HTSC computation uses them
(R39). -/
def resolutionBits (code : Byte) : Option (Nat × Nat) :=
  if code = 0x00 then some (14, 14)
  else if code = 0x01 then some (12, 8)
  else if code = 0x80 then some (13, 10)
  else if code = 0x81 then some (11, 11)
  else none

/-! ### Shared bodies -/

/-- `reg_read()` (R73). -/
def regRead (k : Byte → Prog) : Prog := busWrite1 wireReadReg (busRead1 k)

/-- `reg_write(v)` (R73). -/
def regWrite (v : Byte) (k : Prog) : Prog := busWrite2 wireWriteReg v k

/-- `rmw(keep, set)` (R147). -/
def rmw (keep set : Byte) : Prog :=
  regRead fun old =>
    regWrite ((old &&& keep) ||| set)
      (.finishOk (byteWord ((old &&& keep) ||| set)) (byteWord old))

/-! ### The commands' pseudocode -/

/-- R140 -/
def readConfig (arg : Byte) : Prog :=
  checkArg .none arg (regRead fun v => .finishOk (byteWord v) 0)

/-- R141 -/
def writeConfig (arg : Byte) : Prog :=
  checkArg .byte arg (regWrite arg (.finishOk (byteWord arg) 0))

/-- R142 -/
def setResolution (arg : Byte) : Prog :=
  checkArg .rescode arg (rmw resKeep arg)

/-- R143 -/
def setHeater (arg : Byte) : Prog :=
  checkArg .bool arg (rmw heaterKeep (if arg = 0x01 then heaterOn else 0x00))

/-- R144: enabling reload clears the bit. -/
def setOtpReload (arg : Byte) : Prog :=
  checkArg .bool arg (rmw otpKeep (if arg = 0x01 then 0x00 else otpDisable))

/-- R145 -/
def isBatteryLow (arg : Byte) : Prog :=
  checkArg .none arg (regRead fun v => .finishOk (boolWord (batteryLowOf v)) (byteWord v))

/-- R146, R75: the wait is HTSC's own. -/
def softReset (arg : Byte) : Prog :=
  checkArg .none arg (busWrite1 wireReset (busSleep Config.tResetMs (.finishOk 0 0)))

/-! ### Meanings: one sequencer step of each -/

/-- READ_CONFIG (R140). -/
def execReadConfig (arg : Byte) (s : State) : Host.Outcome State Fault Refusal :=
  .next (sequence (readConfig arg) s)

/-- WRITE_CONFIG (R141). -/
def execWriteConfig (arg : Byte) (s : State) : Host.Outcome State Fault Refusal :=
  .next (sequence (writeConfig arg) s)

/-- SET_RESOLUTION (R142). -/
def execSetResolution (arg : Byte) (s : State) : Host.Outcome State Fault Refusal :=
  .next (sequence (setResolution arg) s)

/-- SET_HEATER (R143). -/
def execSetHeater (arg : Byte) (s : State) : Host.Outcome State Fault Refusal :=
  .next (sequence (setHeater arg) s)

/-- SET_OTP_RELOAD (R144). -/
def execSetOtpReload (arg : Byte) (s : State) : Host.Outcome State Fault Refusal :=
  .next (sequence (setOtpReload arg) s)

/-- IS_BATTERY_LOW (R145). -/
def execIsBatteryLow (arg : Byte) (s : State) : Host.Outcome State Fault Refusal :=
  .next (sequence (isBatteryLow arg) s)

/-- SOFT_RESET (R146). -/
def execSoftReset (arg : Byte) (s : State) : Host.Outcome State Fault Refusal :=
  .next (sequence (softReset arg) s)

end Sys2Proof.Machine
end

