-- ==== Sys2Proof/Machine/Wire.lean ====
section
/-! DEFINITION. The wire command bytes (R120): each is the transaction the port drives onto the bus, carrying DEV_ADDR
(R71). What the sensor does with it is the oracle's (R6, R67). -/

namespace Sys2Proof.Machine

/-- 0xE3, trigger temperature, hold (R120). -/
def execWireTrigTHold (s : State) : Host.Outcome State Fault Refusal :=
  .next (transmit (.write1 0xE3) s)

/-- 0xF3, trigger temperature, no-hold (R120). -/
def execWireTrigTNohold (s : State) : Host.Outcome State Fault Refusal :=
  .next (transmit (.write1 0xF3) s)

/-- 0xE5, trigger humidity, hold (R120). -/
def execWireTrigRhHold (s : State) : Host.Outcome State Fault Refusal :=
  .next (transmit (.write1 0xE5) s)

/-- 0xF5, trigger humidity, no-hold (R120). -/
def execWireTrigRhNohold (s : State) : Host.Outcome State Fault Refusal :=
  .next (transmit (.write1 0xF5) s)

/-- 0xE6 and a data byte, write user register (R120). -/
def execWireWriteUserReg (data : Byte) (s : State) : Host.Outcome State Fault Refusal :=
  .next (transmit (.write2 0xE6 data) s)

/-- 0xE7, read user register (R120): this byte's transaction; the `Bus.read1` that follows it is `reg_read`'s next one
(R73). -/
def execWireReadUserReg (s : State) : Host.Outcome State Fault Refusal :=
  .next (transmit (.write1 0xE7) s)

/-- 0xFE, soft reset (R120). -/
def execWireSoftReset (s : State) : Host.Outcome State Fault Refusal :=
  .next (transmit (.write1 0xFE) s)

end Sys2Proof.Machine
end

