-- ==== Sys2Proof/Machine/Dispatch.lean ====
section
/-! DEFINITION. One arm per instruction: each is one call of its meaning. -/

namespace Sys2Proof.Machine

def exec (i : Instr) (s : State) : Host.Outcome State Fault Refusal :=
  match i with
  | .readConfig arg => Sys2Proof.Machine.execReadConfig arg s
  | .writeConfig arg => Sys2Proof.Machine.execWriteConfig arg s
  | .setResolution arg => Sys2Proof.Machine.execSetResolution arg s
  | .setHeater arg => Sys2Proof.Machine.execSetHeater arg s
  | .setOtpReload arg => Sys2Proof.Machine.execSetOtpReload arg s
  | .isBatteryLow arg => Sys2Proof.Machine.execIsBatteryLow arg s
  | .softReset arg => Sys2Proof.Machine.execSoftReset arg s
  | .measureRawT arg => Sys2Proof.Machine.execMeasureRawT arg s
  | .measureRawRh arg => Sys2Proof.Machine.execMeasureRawRh arg s
  | .getTemperatureC arg => Sys2Proof.Machine.execGetTemperatureC arg s
  | .getTemperatureF arg => Sys2Proof.Machine.execGetTemperatureF arg s
  | .getHumidity arg => Sys2Proof.Machine.execGetHumidity arg s
  | .getDewpointC arg => Sys2Proof.Machine.execGetDewpointC arg s
  | .getDewpointF arg => Sys2Proof.Machine.execGetDewpointF arg s
  | .crcCheck arg => Sys2Proof.Machine.execCrcCheck arg s
  | .convTempC arg => Sys2Proof.Machine.execConvTempC arg s
  | .convTempF arg => Sys2Proof.Machine.execConvTempF arg s
  | .convHumRaw arg => Sys2Proof.Machine.execConvHumRaw arg s
  | .convHumComp arg => Sys2Proof.Machine.execConvHumComp arg s
  | .convSvp arg => Sys2Proof.Machine.execConvSvp arg s
  | .convDewC arg => Sys2Proof.Machine.execConvDewC arg s
  | .convDewF arg => Sys2Proof.Machine.execConvDewF arg s
  | .wireTrigTHold => Sys2Proof.Machine.execWireTrigTHold s
  | .wireTrigTNohold => Sys2Proof.Machine.execWireTrigTNohold s
  | .wireTrigRhHold => Sys2Proof.Machine.execWireTrigRhHold s
  | .wireTrigRhNohold => Sys2Proof.Machine.execWireTrigRhNohold s
  | .wireWriteUserReg data => Sys2Proof.Machine.execWireWriteUserReg data s
  | .wireReadUserReg => Sys2Proof.Machine.execWireReadUserReg s
  | .wireSoftReset => Sys2Proof.Machine.execWireSoftReset s

end Sys2Proof.Machine
end

