-- ==== Sys2Proof/Machine/HostPort.lean ====
section
/-! DEFINITION. The host register port (R20 to R33, R60 to R65) and the host program notation (R130). -/

namespace Sys2Proof.Machine

/-- The nine host registers (R20). -/
inductive HostReg
  | cmd
  | status
  | ctrl
  | devaddr
  | opa
  | opb
  | opc
  | res0
  | res1
deriving DecidableEq, Repr

/-- The byte offset of a register (R20). -/
def offsetOf : HostReg → Nat
  | .cmd => 0x00
  | .status => 0x04
  | .ctrl => 0x08
  | .devaddr => 0x0C
  | .opa => 0x10
  | .opb => 0x14
  | .opc => 0x18
  | .res0 => 0x20
  | .res1 => 0x24

/-- The register at an offset; `none` for a reserved offset (R20, R33). -/
def regAt (off : Nat) : Option HostReg :=
  if off = 0x00 then some .cmd
  else if off = 0x04 then some .status
  else if off = 0x08 then some .ctrl
  else if off = 0x0C then some .devaddr
  else if off = 0x10 then some .opa
  else if off = 0x14 then some .opb
  else if off = 0x18 then some .opc
  else if off = 0x20 then some .res0
  else if off = 0x24 then some .res1
  else none

/-- What a register reads as (R21, R22, R27, R30, R31, R32). -/
def readReg (r : HostReg) (s : State) : Word :=
  match r with
  | .cmd => s.lCmd
  | .status => statusWord s
  | .ctrl => s.ctrl
  | .devaddr => s.devaddr.setWidth 32
  | .opa => s.opa
  | .opb => s.opb
  | .opc => s.opc
  | .res0 => s.res0
  | .res1 => s.res1

/-- The write effect of a register (R61, R65): CMD starts or is rejected, CTRL and OPA to OPC store, the read-only
registers ignore it. -/
def writeReg (r : HostReg) (v : Word) (s : State) : State :=
  match r with
  | .cmd => writeCmd v s
  | .status => s
  | .ctrl => { s with ctrl := v &&& ctrlMask }
  | .devaddr => s
  | .opa => { s with opa := v }
  | .opb => { s with opb := v }
  | .opc => { s with opc := v }
  | .res0 => s
  | .res1 => s

/-- `HostRead(off)` for a defined offset: a reserved one reads 0 (R33, R61). -/
def readOff (off : Nat) (s : State) : Word :=
  match regAt off with
  | some r => readReg r s
  | none => 0x00000000

/-- `HostWrite(off, v)` for a defined offset: a reserved one ignores it (R33, R61). -/
def writeOff (off : Nat) (v : Word) (s : State) : State :=
  match regAt off with
  | some r => writeReg r v s
  | none => s

/-- One host read step (R61, R64): nothing of HTSC changes; the word goes to the host. An undefined access is refused
(R62). -/
def hostRead (a : Access) (s : State) : Host.Outcome State Fault Refusal :=
  if a.wellFormed then .next { s with rdata := readOff a.off s } else .refused (.undefinedHostAccess a)

/-- One host write step (R61, R65). An undefined access is refused (R62). -/
def hostWrite (a : Access) (v : Word) (s : State) : Host.Outcome State Fault Refusal :=
  if a.wellFormed then .next (writeOff a.off v s) else .refused (.undefinedHostAccess a)

/-- A full 32-bit access to a register. -/
def regAccess (r : HostReg) : Access := ⟨offsetOf r, 32, 0xF⟩

/-- A line of a host program (R130). Labels, `BUSY?`, `WAIT` and `RUN` are the host's own control flow over these. -/
inductive HostLine
  /-- `W <REG>, <value>` -/
  | w (r : HostReg) (v : Word)
  /-- `R <REG> -> <name>` -/
  | r (r : HostReg)
  /-- `CMD <MNEMONIC> [<arg>]` -/
  | cmd (opcode arg : Byte)
deriving DecidableEq, Repr

/-- The host access a line makes (R130). -/
def lineInput : HostLine → Input
  | .w r v => .hostWrite (regAccess r) v
  | .r r => .hostRead (regAccess r)
  | .cmd opcode arg => .hostWrite (regAccess .cmd) (cmdWord opcode arg)

end Sys2Proof.Machine
end

