-- ==== Sys2Proof/Machine/Agents.lean ====
section
/-! DEFINITION. What the agents do in one step (R14, R41, R61): the port drives what the sequencer asked for, the
sequencer runs its command, and the other agents' inputs land. -/

namespace Sys2Proof.Machine

/-- The bytes a request puts on the wire after the address; a read and a sleep write none (R66). -/
def wireBytesOf : BusOp → Option (List Byte)
  | .write1 b => some [b]
  | .write2 c d => some [c, d]
  | .read1 => none
  | .sleep _ => none

/-- The port drives the request it holds: bytes to be written are a wire command, decoded and executed (R72, R120); a read
or a sleep is issued as it is (R66). Bytes that are no wire command have no behaviour in the spec. -/
def drivePort (s : State) : Host.Outcome State Fault Refusal :=
  match s.port with
  | .idle => .next s
  | .outstanding _ => .next s
  | .requested op =>
    match wireBytesOf op with
    | none => .next (issue op s)
    | some bytes =>
      match decode (.wire bytes) with
      | .ok i => exec i s
      | .error _ => .fault (.unknownWireCommand op)

/-- Continue with the port after the sequencer. -/
def thenDrive : Host.Outcome State Fault Refusal → Host.Outcome State Fault Refusal
  | .next s => drivePort s
  | .fault r => .fault r
  | .refused r => .refused r

/-- One step of HTSC itself (R41). A transaction not yet answered: it waits (R68). A request in the port: it is driven.
Otherwise a running sequencer runs its command up to the next transaction, which the port drives in the same step; a word
that is no command ends with ILLEGAL_COMMAND (R101, R102, R256). IDLE: no step is taken. -/
def htscStep (s : State) : Host.Outcome State Fault Refusal :=
  match s.port with
  | .outstanding _ => .next s
  | .requested _ => drivePort s
  | .idle =>
    match s.seq with
    | .idle => .next s
    | .run _ =>
      match decodeCmd s.lCmd with
      | .ok i => thenDrive (exec i s)
      | .error _ => .next (finish .illegalCommand s)

/-- One step: the next input lands, or HTSC moves (log entry 1). -/
def systemStep (s : State) : Host.Outcome State Fault Refusal :=
  match s.inputs with
  | [] => htscStep s
  | .tick :: rest => htscStep { s with inputs := rest }
  | .hostRead a :: rest => hostRead a { s with inputs := rest }
  | .hostWrite a v :: rest => hostWrite a v { s with inputs := rest }
  | .answer err byte :: rest => .next (answerTxn err byte { s with inputs := rest })
  | .reset :: rest => .next (resetInput { s with inputs := rest })

/-- The request for the wire bytes of a table word: 0xE6 takes its data byte with it (R120). -/
def tableRequest (w : Nat) : BusOp :=
  if BitVec.ofNat 8 w = (0xE6 : Byte) then .write2 0xE6 (BitVec.ofNat 8 (w / 2 ^ 8))
  else .write1 (BitVec.ofNat 8 w)

/-- Place a table word where the next step fetches (log entry 9): a command word is accepted as a CMD write with BUSY = 0
is (R45), with no transaction pending in the port; a wire command is requested of the port. The next input is a tick, so
that HTSC moves. -/
def placeTableWord (s : State) (nbits w : Nat) : State :=
  if nbits ≤ 16 then { s with port := .requested (tableRequest w), inputs := .tick :: s.inputs }
  else { accept (BitVec.ofNat 32 w) s with port := .idle, inputs := .tick :: s.inputs }

end Sys2Proof.Machine
end

