-- ==== Sys2Proof/Machine/Step.lean ====
section
/-! DEFINITION. The step function, and how an instruction is placed where it fetches. -/

namespace Sys2Proof.Machine

/-- One step of the machine: of the host, of the transport, of the reset input or of HTSC (R14, R61). -/
def step (s : State) : Host.Outcome State Fault Refusal := systemStep s

/-- `s` with the table word `w` of `nbits` bits where `step` fetches its next instruction (log entry 9). -/
def State.withFetchWord (s : State) (nbits w : Nat) : State := placeTableWord s nbits w

end Sys2Proof.Machine
end

