-- ==== Sys2Proof/Machine/RefSensor.lean ====
section
/-! DEFINITION. The non-normative reference sensor of R80, for closing the loop in test programs. It is not part of HTSC
and not in `State`: HTSC takes the sensor as the unconstrained oracle of R67 (the inputs), and this sensor's answers are
some of those (log entry 15). -/

namespace Sys2Proof.Machine

/-- What the next `read1` returns (R80). -/
inductive ReadPtr
  | reg
  | frame (k : Nat)
deriving DecidableEq, Repr

/-- The reference sensor (R80): its user register `u`, read pointer and pending frame; its inputs `batteryLow`,
`valueT`, `valueRh`; and the unconstrained byte of any other read. -/
structure RefSensor where
  u : Byte
  next : ReadPtr
  f : Frame
  batteryLow : Bool
  valueT : Raw
  valueRh : Raw
  stray : Byte
deriving DecidableEq, Repr

/-- Bit 6 as `battery_low` sets it (R80). -/
def batteryBit (r : RefSensor) : Byte := if r.batteryLow then 0x40 else 0x00

/-- The user register as read: bit 6 follows `battery_low` at all times (R80). -/
def userReg (r : RefSensor) : Byte := (r.u &&& 0xBF) ||| batteryBit r

/-- `frame(v)` (R80): the value's two bytes and their checksum. -/
def frameOf (v : Raw) : Frame :=
  ⟨v.extractLsb' 8 8, v.extractLsb' 0 8, crc8 (v.extractLsb' 8 8) (v.extractLsb' 0 8)⟩

/-- What a one-byte write does to the sensor (R80); a soft reset restores the parameter `U_POR` (R294). -/
def sensorWrite1 (b : Byte) (r : RefSensor) : RefSensor :=
  if b = 0xE7 then { r with next := .reg }
  else if b = 0xFE then { r with u := (Config.uPor &&& 0xBF) ||| batteryBit r }
  else if b = 0xE3 ∨ b = 0xF3 then { r with f := frameOf r.valueT, next := .frame 0 }
  else if b = 0xE5 ∨ b = 0xF5 then { r with f := frameOf r.valueRh, next := .frame 0 }
  else r

/-- What a command-and-data write does to the sensor (R80): bit 6 is read-only. -/
def sensorWrite2 (c d : Byte) (r : RefSensor) : RefSensor :=
  if c = 0xE6 then { r with u := (userReg r &&& 0x40) ||| (d &&& 0xBF) } else r

/-- The byte a read returns, and the pointer after it (R80). -/
def sensorRead1 (r : RefSensor) : Byte × RefSensor :=
  match r.next with
  | .reg => (userReg r, r)
  | .frame 0 => (r.f.msb, { r with next := .frame 1 })
  | .frame 1 => (r.f.lsb, { r with next := .frame 2 })
  | .frame 2 => (r.f.crc, { r with next := .frame 3 })
  | .frame (_ + 3) => (r.stray, r)

/-- The sensor's reaction to a transaction: the byte on the wire (a read's) and its state after. -/
def react (t : Txn) (r : RefSensor) : Byte × RefSensor :=
  match t with
  | .write1 _ b => (0, sensorWrite1 b r)
  | .write2 _ c d => (0, sensorWrite2 c d r)
  | .read1 _ => sensorRead1 r
  | .sleep _ => (0, r)

/-- The reference sensor answers the outstanding transaction, `ok` unless the test injects `err` (R80). After an injected
`err` the sensor took the transaction or not: both are admitted (R258, I5). -/
def sensorAnswer (injectErr took : Bool) (s : State) (r : RefSensor) : State × RefSensor :=
  match s.port with
  | .outstanding t =>
    if injectErr then (answerTxn true 0 s, if took then (react t r).2 else r)
    else (answerTxn false (react t r).1 s, (react t r).2)
  | .idle => (s, r)
  | .requested _ => (s, r)

/-- One step of HTSC with the reference sensor attached, every answer `ok`: an outstanding transaction is answered,
otherwise the machine steps. -/
def closedStep (x : State × RefSensor) : Host.Outcome (State × RefSensor) Fault Refusal :=
  match x.1.port with
  | .outstanding _ => .next (sensorAnswer false false x.1 x.2)
  | .idle =>
    match step x.1 with
    | .next s => .next (s, x.2)
    | .fault e => .fault e
    | .refused e => .refused e
  | .requested _ =>
    match step x.1 with
    | .next s => .next (s, x.2)
    | .fault e => .fault e
    | .refused e => .refused e

/-- `k` steps of HTSC with the reference sensor attached. -/
def closedRun : Nat → State × RefSensor → Host.Outcome (State × RefSensor) Fault Refusal
  | 0, x => .next x
  | k + 1, x =>
    match closedStep x with
    | .next y => closedRun k y
    | .fault e => .fault e
    | .refused e => .refused e

end Sys2Proof.Machine
end

