-- ==== Sys2Proof/Safety.lean ====
section
/-! DEFINITION. The terms the claims use: what a command's end leaves, the invariant of HTSC, the transport trace read as a
bus span (R69, R70), and the exact real values of R217 and R218. The machine does not use them. -/

namespace Sys2Proof.Safety

open Sys2Proof.Machine

/-! ### The ends and the waits of a command -/

/-- The trace with RELEASE recorded if the bus was held (R69). -/
def released (s : State) : List BusEvent := if s.busHeld then s.trace ++ [.release] else s.trace

/-- What `finish_ok(r0, r1)` leaves of `s` (R31). -/
def succeeded (r0 r1 : Word) (s : State) : State :=
  { s with
    res0 := r0, res1 := r1, err := .none, busy := false, done := true, seq := .idle,
    trace := released s, busHeld := false }

/-- What `finish(code)` leaves of `s` (R254). -/
def failed (code : ErrCode) (s : State) : State :=
  { s with err := code, busy := false, done := true, seq := .idle, trace := released s, busHeld := false }

/-- `s` with the sequencer stopped before the transaction `op`, which it hands to the port (R41). -/
def asking (op : BusOp) (s : State) : State := { s with port := .requested op }

/-- A state in which the sequencer can take a step of the running command, having had the answers `got` (R41). -/
abbrev AtStep (s : State) (got : List Answer) : Prop := s.seq = .run got ∧ s.port = .idle

/-- The three answers of a frame's bytes, after those of the command write and the settle delay (R171). -/
def frameAnswers (f : Frame) : List Answer := [.ok, .ok, .okByte f.msb, .okByte f.lsb, .okByte f.crc]

/-- The frame passes the running command's checksum policy (R174). -/
def accepted (s : State) (f : Frame) : Bool := !(crcEnabled s) || crcRem f == 0

/-- What acceptance of the command word `w` leaves of `s` (R45). -/
def afterAccept (w : Word) (s : State) : State :=
  { s with
    lCmd := w, lCtrl := s.ctrl, lOpa := s.opa, lOpb := s.opb, lOpc := s.opc,
    busy := true, done := false, collision := false, err := .none, seq := .run [] }

/-- `s` with the transaction `t` issued: ACQUIRE first if the bus was not held (R69), then `t`, which is outstanding. -/
def issued (t : Txn) (s : State) : State :=
  { s with
    trace := (if s.busHeld then s.trace else s.trace ++ [.acquire]) ++ [.issue t]
    busHeld := true
    port := .outstanding t }

/-- The sequencer step of `i` reaches the transaction `op`: `exec` hands it to the port, and the port, in the same step,
issues it at DEV_ADDR, after ACQUIRE if the bus is not held (R41, R69, R71). -/
def Asks (i : Instr) (op : BusOp) (s : State) : Prop :=
  exec i s = .next (asking op s) ∧ thenDrive (exec i s) = .next (issued (addressed s.devaddr op) s)

/-- The 22 assigned opcodes (R106). -/
def assignedOpcodes : List Byte :=
  [0x01, 0x02, 0x03, 0x04, 0x05, 0x06, 0x07, 0x10, 0x11, 0x12, 0x13, 0x14, 0x15, 0x16, 0x17,
    0x20, 0x21, 0x22, 0x23, 0x24, 0x25, 0x26]

/-- How many transactions a command makes when nothing fails (R303); a wire command is not a command. -/
def transactionsOf : Instr → Option Nat
  | .readConfig _ => some 2
  | .writeConfig _ => some 1
  | .setResolution _ => some 3
  | .setHeater _ => some 3
  | .setOtpReload _ => some 3
  | .isBatteryLow _ => some 2
  | .softReset _ => some 2
  | .measureRawT _ => some 5
  | .measureRawRh _ => some 5
  | .getTemperatureC _ => some 5
  | .getTemperatureF _ => some 5
  | .getHumidity _ => some 10
  | .getDewpointC _ => some 15
  | .getDewpointF _ => some 15
  | .crcCheck _ => some 0
  | .convTempC _ => some 0
  | .convTempF _ => some 0
  | .convHumRaw _ => some 0
  | .convHumComp _ => some 0
  | .convSvp _ => some 0
  | .convDewC _ => some 0
  | .convDewF _ => some 0
  | .wireTrigTHold => none
  | .wireTrigTNohold => none
  | .wireTrigRhHold => none
  | .wireTrigRhNohold => none
  | .wireWriteUserReg _ => none
  | .wireReadUserReg => none
  | .wireSoftReset => none

/-- What a read-modify-write instruction does at each of its positions (R147): the read's two transactions, the write of
`(old & keep) | set`, success with the new and the old byte; BUS_ERROR at a transaction that answers `err`. -/
def ReadsModifiesWrites (i : Instr) (keep set : Byte) (s : State) : Prop :=
  (AtStep s [] → Asks i (.write1 0xE7) s) ∧
  (AtStep s [.ok] → Asks i .read1 s) ∧
  (∀ old, AtStep s [.ok, .okByte old] → Asks i (.write2 0xE6 ((old &&& keep) ||| set)) s) ∧
  (∀ old, AtStep s [.ok, .okByte old, .ok] →
    exec i s = .next (succeeded (((old &&& keep) ||| set).setWidth 32) (old.setWidth 32) s)) ∧
  (AtStep s [.err] → exec i s = .next (failed .busError s)) ∧
  (AtStep s [.ok, .err] → exec i s = .next (failed .busError s)) ∧
  (∀ old, AtStep s [.ok, .okByte old, .err] → exec i s = .next (failed .busError s))

/-- A command refuses its argument byte in its first step, with no transaction (R149, R251). -/
def RejectsArgument (i : Instr) (s : State) : Prop :=
  AtStep s [] → exec i s = .next (failed .invalidArgument s)

/-- What the instruction `i` does through one acquisition of the quantity `q`, its answers coming after `pre` (R171): the
five transactions in order, BUS_ERROR where one answers `err`, and CHECKSUM_MISMATCH for a frame the policy rejects. -/
def AcquiresAfter (i : Instr) (q : Quantity) (mode : Byte) (s : State) (pre : List Answer) : Prop :=
  (AtStep s pre → Asks i (.write1 ((if q = .t then 0xE3 else 0xE5) ||| mode)) s) ∧
  (AtStep s (pre ++ ([.ok] : List Answer)) → Asks i (.sleep 300) s) ∧
  (AtStep s (pre ++ ([.ok, .ok] : List Answer)) → Asks i .read1 s) ∧
  (∀ m, AtStep s (pre ++ ([.ok, .ok, .okByte m] : List Answer)) → Asks i .read1 s) ∧
  (∀ m l, AtStep s (pre ++ ([.ok, .ok, .okByte m, .okByte l] : List Answer)) → Asks i .read1 s) ∧
  (AtStep s (pre ++ ([.err] : List Answer)) → exec i s = .next (failed .busError s)) ∧
  (AtStep s (pre ++ ([.ok, .ok, .err] : List Answer)) → exec i s = .next (failed .busError s)) ∧
  (∀ m, AtStep s (pre ++ ([.ok, .ok, .okByte m, .err] : List Answer)) → exec i s = .next (failed .busError s)) ∧
  (∀ m l, AtStep s (pre ++ ([.ok, .ok, .okByte m, .okByte l, .err] : List Answer)) →
    exec i s = .next (failed .busError s)) ∧
  (∀ f, crcEnabled s = true → crcRem f ≠ 0 → AtStep s (pre ++ frameAnswers f) →
    exec i s = .next (failed .checksumMismatch s))

/-- The raw word of a frame: MSB first, bits 1:0 cleared (R76, R172). -/
def rawOf (f : Frame) : Raw := (f.msb ++ f.lsb) &&& 0xFFFC

/-! ### The transport trace as a span (R69, R70) -/

/-- Where the trace stands: bus free, held, or held with a transaction unanswered. -/
inductive Span
  | free
  | held
  | waiting
deriving DecidableEq, Repr

/-- The events the trace may go on with: one transaction outstanding at a time, all of them inside a span; a RELEASE may
follow an unanswered transaction, after a reset (R291). -/
def spanStep : Span → BusEvent → Option Span
  | .free, .acquire => some .held
  | .held, .issue _ => some .waiting
  | .held, .release => some .free
  | .waiting, .answer _ => some .held
  | .waiting, .release => some .free
  | _, _ => none

/-- Where a whole trace leaves the bus; `none` if it breaks R69 or R70. -/
def spanOf : Span → List BusEvent → Option Span
  | b, [] => some b
  | b, e :: rest =>
    match spanStep b e with
    | some b' => spanOf b' rest
    | none => none

/-- Where the bus stands in a state. -/
def spanNow (s : State) : Span :=
  match s.port with
  | .outstanding _ => .waiting
  | .requested _ => if s.busHeld then .held else .free
  | .idle => if s.busHeld then .held else .free

/-! ### The invariant -/

/-- The one-byte wire commands (R120): all but 0xE6, which is sent with its data byte. -/
def oneByteCommands : List Byte := [0xE3, 0xF3, 0xE5, 0xF5, 0xE7, 0xFE]

/-- A transaction HTSC may issue: it carries DEV_ADDR (R71), one of the seven command bytes (R72), or one of the two
delays (R265). -/
def TxnOk (a : BusAddr) : Txn → Prop
  | .write1 a' b => a' = a ∧ b ∈ oneByteCommands
  | .write2 a' c _ => a' = a ∧ c = 0xE6
  | .read1 a' => a' = a
  | .sleep ms => ms = 300 ∨ ms = 15

/-- Every transaction of the trace is one HTSC may issue. -/
def TraceOk (a : BusAddr) (trace : List BusEvent) : Prop :=
  ∀ t, BusEvent.issue t ∈ trace → TxnOk a t

/-- The invariant of HTSC: CTRL and its latch hold only CRC_EN and NOHOLD (R27, R40); BUSY says whether a command runs
(R23); DONE and ERR are clear while one does (R24, R26); the bus is held only then (R69); between steps no request is
left undriven (R41); the trace obeys R69 and R70 and agrees with `bus_held` and the port; and only transactions HTSC may
issue were issued (R71, R72). -/
structure Inv (s : State) : Prop where
  ctrl : s.ctrl &&& ~~~ 0x00000011#32 = 0
  lCtrl : s.lCtrl &&& ~~~ 0x00000011#32 = 0
  busyRuns : s.busy = true ↔ s.seq ≠ .idle
  busyClear : s.busy = true → s.done = false ∧ s.err = .none
  heldBusy : s.busHeld = true → s.busy = true
  outstandingHeld : ∀ t, s.port = .outstanding t → s.busHeld = true
  driven : ∀ op, s.port ≠ .requested op
  span : spanOf .free s.trace = some (spanNow s)
  txns : TraceOk s.devaddr s.trace

/-- A step of a safe run does not fault. -/
def Safe (s : State) : Prop := ∀ r, step s ≠ .fault r

/-! ### The exact values of the transcendental conversions, over the reals (R11) -/

/-- R217's `x`, in µmmHg, at `t` milli-°C. -/
noncomputable def svpReal (t : ℤ) : ℝ :=
  (10 : ℝ) ^ ((8.1332 : ℝ) - 1762.39 / ((t : ℝ) / 1000 + 235.66)) * 10 ^ 6

/-- R218's `x`, in milli-°C, at `h` milli-%RH and `p` µmmHg. -/
noncomputable def dewReal (h p : ℤ) : ℝ :=
  -(1762.39 / (Real.logb 10 ((h : ℝ) * (p : ℝ) / 10 ^ 11) - 8.1332) + 235.66) * 1000

/-- `r` is in `FR(x) ∩ [lo, hi]` (R212). -/
def InFR (x : ℝ) (lo hi r : ℤ) : Prop := (r = ⌊x⌋ ∨ r = ⌈x⌉) ∧ lo ≤ r ∧ r ≤ hi

end Sys2Proof.Safety
end

