-- ==== Sys2Proof/Certificates/Slice0/Obligations.lean ====
section
/-! DEFINITION. The statements for the provers, each from the numbered rules of spec/. -/

open Sys2Proof Sys2Proof.Machine Sys2Proof.Safety

/-! ### Encoding -/

/-- R106, R120, R132, V1: words written out from the spec's encodings decode to the instructions they stand for. -/
def Obligations.WrittenOutWordsDecode : Prop :=
  decodeCmd 0x00000100 = .ok (.readConfig 0x00) ∧
  decodeCmd 0x00000381 = .ok (.setResolution 0x81) ∧
  decodeCmd 0x00001110 = .ok (.measureRawRh 0x10) ∧
  decodeCmd 0x00002600 = .ok (.convDewF 0x00) ∧
  decodeCmd 0x00000000 = .error (.unassignedOpcode 0x00) ∧
  decodeCmd 0x80000381 = .error .reservedBits ∧
  decodeWire [0xF5] = .ok (.wireTrigRhNohold, []) ∧
  decodeWire [0xE6, 0xCB] = .ok (.wireWriteUserReg 0xCB, [])

/-- R100, R106, R120: decoding the encoding of any instruction, with its argument or data byte at any value, gives it
back. -/
def Obligations.DecodeOfEncodeIsTheInstruction : Prop :=
  ∀ i : Instr, decode (encode i) = .ok i

/-- R100, R106: a command word has one reading: encoding what it decodes to gives the word back, and every 32-bit word
with its reserved bits zero and an assigned opcode decodes. -/
def Obligations.DecodedWordsEncodeToThemselves : Prop :=
  (∀ (w : Word) (i : Instr), decodeCmd w = .ok i → encode i = .cmd w) ∧
  (∀ w : Word, w.extractLsb' 16 16 = 0 → w.extractLsb' 8 8 ∈ assignedOpcodes → ∃ i, decodeCmd w = .ok i)

/-- R101, R102, R256: a word with nonzero reserved bits, or with an unassigned opcode, is accepted as a command and ends
with ILLEGAL_COMMAND in its first sequencer step, with no transaction. -/
def Obligations.IllegalWordEndsInItsFirstStep : Prop :=
  ∀ (s : State) (w : Word) (rest : List Input),
    s.busy = false → s.port = .idle → s.inputs = .hostWrite (regAccess .cmd) w :: .tick :: rest →
    w.extractLsb' 16 16 ≠ 0 ∨ w.extractLsb' 8 8 ∉ assignedOpcodes →
    Host.Core.run core 2 s = .next (failed .illegalCommand { afterAccept w s with inputs := rest })

/-- R103, R251: every command whose argument byte is outside its kind's legal set ends with INVALID_ARGUMENT in its first
sequencer step: no transaction, the results and the trace but for a RELEASE unchanged. -/
def Obligations.IllegalArgumentEndsInItsFirstStep : Prop :=
  ∀ (i : Instr) (s : State), i.wellFormed = false → RejectsArgument i s

/-! ### Register controller -/

/-- R140 -/
def Obligations.ReadConfigReadsTheUserRegister : Prop :=
  ∀ (s : State) (v : Byte),
    decodeCmd 0x00000100 = .ok (.readConfig 0) ∧
    (∀ arg, arg ≠ 0 → RejectsArgument (.readConfig arg) s) ∧
    (AtStep s [] → Asks (.readConfig 0) (.write1 0xE7) s) ∧
    (AtStep s [.ok] → Asks (.readConfig 0) .read1 s) ∧
    (AtStep s [.ok, .okByte v] → exec (.readConfig 0) s = .next (succeeded (v.setWidth 32) 0 s)) ∧
    (AtStep s [.err] → exec (.readConfig 0) s = .next (failed .busError s)) ∧
    (AtStep s [.ok, .err] → exec (.readConfig 0) s = .next (failed .busError s))

/-- R141 -/
def Obligations.WriteConfigWritesTheByteAsGiven : Prop :=
  ∀ (s : State) (v : Byte),
    decodeCmd (0x00000200 ||| v.setWidth 32) = .ok (.writeConfig v) ∧
    (AtStep s [] → Asks (.writeConfig v) (.write2 0xE6 v) s) ∧
    (AtStep s [.ok] → exec (.writeConfig v) s = .next (succeeded (v.setWidth 32) 0 s)) ∧
    (AtStep s [.err] → exec (.writeConfig v) s = .next (failed .busError s))

/-- R142 -/
def Obligations.SetResolutionChangesOnlyBitsSevenAndZero : Prop :=
  ∀ (s : State) (r : Byte),
    decodeCmd (0x00000300 ||| r.setWidth 32) = .ok (.setResolution r) ∧
    (r = 0x00 ∨ r = 0x01 ∨ r = 0x80 ∨ r = 0x81 →
      ReadsModifiesWrites (.setResolution r) 0x7E r s ∧
      ∀ old : Byte, ((old &&& 0x7E) ||| r) &&& 0x7E = old &&& 0x7E ∧ ((old &&& 0x7E) ||| r) &&& 0x81 = r) ∧
    (r ≠ 0x00 → r ≠ 0x01 → r ≠ 0x80 → r ≠ 0x81 → RejectsArgument (.setResolution r) s)

/-- R143 -/
def Obligations.SetHeaterChangesOnlyBitTwo : Prop :=
  ∀ (s : State),
    decodeCmd 0x00000400 = .ok (.setHeater 0) ∧ decodeCmd 0x00000401 = .ok (.setHeater 1) ∧
    ReadsModifiesWrites (.setHeater 0) 0xFB 0x00 s ∧
    ReadsModifiesWrites (.setHeater 1) 0xFB 0x04 s ∧
    (∀ e : Byte, 2 ≤ e.toNat → RejectsArgument (.setHeater e) s) ∧
    (∀ old : Byte, ((((old &&& 0xFB) ||| 0x04) &&& 0xFB) ||| 0x00) = old &&& 0xFB)

/-- R144 -/
def Obligations.SetOtpReloadChangesOnlyBitOneInverted : Prop :=
  ∀ (s : State),
    decodeCmd 0x00000500 = .ok (.setOtpReload 0) ∧ decodeCmd 0x00000501 = .ok (.setOtpReload 1) ∧
    ReadsModifiesWrites (.setOtpReload 0) 0xFD 0x02 s ∧
    ReadsModifiesWrites (.setOtpReload 1) 0xFD 0x00 s ∧
    (∀ e : Byte, 2 ≤ e.toNat → RejectsArgument (.setOtpReload e) s) ∧
    (∀ old : Byte, otpReloadEnabledOf ((old &&& 0xFD) ||| 0x02) = false ∧
      otpReloadEnabledOf ((old &&& 0xFD) ||| 0x00) = true)

/-- R145 -/
def Obligations.IsBatteryLowTestsBitSix : Prop :=
  ∀ (s : State) (v : Byte),
    decodeCmd 0x00000600 = .ok (.isBatteryLow 0) ∧
    (∀ arg, arg ≠ 0 → RejectsArgument (.isBatteryLow arg) s) ∧
    (AtStep s [] → Asks (.isBatteryLow 0) (.write1 0xE7) s) ∧
    (AtStep s [.ok] → Asks (.isBatteryLow 0) .read1 s) ∧
    (AtStep s [.ok, .okByte v] →
      exec (.isBatteryLow 0) s = .next (succeeded (if v.getLsbD 6 then 1 else 0) (v.setWidth 32) s)) ∧
    (AtStep s [.err] → exec (.isBatteryLow 0) s = .next (failed .busError s)) ∧
    (AtStep s [.ok, .err] → exec (.isBatteryLow 0) s = .next (failed .busError s))

/-- R146 -/
def Obligations.SoftResetWaitsBeforeItCompletes : Prop :=
  ∀ (s : State),
    decodeCmd 0x00000700 = .ok (.softReset 0) ∧
    (∀ arg, arg ≠ 0 → RejectsArgument (.softReset arg) s) ∧
    (AtStep s [] → Asks (.softReset 0) (.write1 0xFE) s) ∧
    (AtStep s [.ok] → Asks (.softReset 0) (.sleep 15) s) ∧
    (AtStep s [.ok, .ok] → exec (.softReset 0) s = .next (succeeded 0 0 s)) ∧
    (AtStep s [.err] → exec (.softReset 0) s = .next (failed .busError s))

/-! ### Measurement -/

/-- R175 -/
def Obligations.MeasureRawTReturnsTheMaskedWord : Prop :=
  ∀ (s : State) (mode : Byte),
    decodeCmd (0x00001000 ||| mode.setWidth 32) = .ok (.measureRawT mode) ∧
    (mode ≠ 0x00 → mode ≠ 0x10 → RejectsArgument (.measureRawT mode) s) ∧
    (mode = 0x00 ∨ mode = 0x10 →
      AcquiresAfter (.measureRawT mode) .t mode s [] ∧
      ∀ f, accepted s f = true → AtStep s (frameAnswers f) →
        exec (.measureRawT mode) s =
          .next (succeeded ((rawOf f).setWidth 32) ((f.msb ++ f.lsb ++ f.crc).setWidth 32) s)) ∧
    (∀ f, (rawOf f).toNat % 4 = 0 ∧ (rawOf f).toNat ≤ 65532)

/-- R176 -/
def Obligations.MeasureRawRhReturnsTheMaskedWord : Prop :=
  ∀ (s : State) (mode : Byte),
    decodeCmd (0x00001100 ||| mode.setWidth 32) = .ok (.measureRawRh mode) ∧
    (mode ≠ 0x00 → mode ≠ 0x10 → RejectsArgument (.measureRawRh mode) s) ∧
    (mode = 0x00 ∨ mode = 0x10 →
      AcquiresAfter (.measureRawRh mode) .rh mode s [] ∧
      ∀ f, accepted s f = true → AtStep s (frameAnswers f) →
        exec (.measureRawRh mode) s =
          .next (succeeded ((rawOf f).setWidth 32) ((f.msb ++ f.lsb ++ f.crc).setWidth 32) s)) ∧
    (∀ f, (rawOf f).toNat % 4 = 0 ∧ (rawOf f).toNat ≤ 65532)

/-- R177 -/
def Obligations.GetTemperatureCMeasuresAndConverts : Prop :=
  ∀ (s : State),
    decodeCmd 0x00001200 = .ok (.getTemperatureC 0) ∧
    (∀ arg, arg ≠ 0 → RejectsArgument (.getTemperatureC arg) s) ∧
    AcquiresAfter (.getTemperatureC 0) .t ((s.lCtrl &&& 0x10).setWidth 8) s [] ∧
    (∀ f, accepted s f = true → AtStep s (frameAnswers f) →
      exec (.getTemperatureC 0) s =
        .next (succeeded (BitVec.ofInt 32 (tempC (rawOf f))) ((f.msb ++ f.lsb ++ f.crc).setWidth 32) s)) ∧
    (∀ f, -46850 ≤ tempC (rawOf f) ∧ tempC (rawOf f) ≤ 128859)

/-- R178 -/
def Obligations.GetTemperatureFMeasuresAndConverts : Prop :=
  ∀ (s : State),
    decodeCmd 0x00001300 = .ok (.getTemperatureF 0) ∧
    (∀ arg, arg ≠ 0 → RejectsArgument (.getTemperatureF arg) s) ∧
    AcquiresAfter (.getTemperatureF 0) .t ((s.lCtrl &&& 0x10).setWidth 8) s [] ∧
    (∀ f, accepted s f = true → AtStep s (frameAnswers f) →
      ∃ v : Int, tempF (tempC (rawOf f)) = some v ∧ -52330 ≤ v ∧ v ≤ 263946 ∧
        exec (.getTemperatureF 0) s =
          .next (succeeded (BitVec.ofInt 32 v) ((f.msb ++ f.lsb ++ f.crc).setWidth 32) s))

/-- R179, R185: temperature first, then humidity; a failure in the first never asks for the second. -/
def Obligations.GetHumidityMeasuresTemperatureThenHumidity : Prop :=
  ∀ (s : State),
    decodeCmd 0x00001400 = .ok (.getHumidity 0) ∧
    (∀ arg, arg ≠ 0 → RejectsArgument (.getHumidity arg) s) ∧
    AcquiresAfter (.getHumidity 0) .t ((s.lCtrl &&& 0x10).setWidth 8) s [] ∧
    (∀ f1, accepted s f1 = true →
      AcquiresAfter (.getHumidity 0) .rh ((s.lCtrl &&& 0x10).setWidth 8) s (frameAnswers f1) ∧
      ∀ f2, accepted s f2 = true → AtStep s (frameAnswers f1 ++ frameAnswers f2) →
        ∃ h : Int, humComp (tempC (rawOf f1)) (humRaw (rawOf f2)) = some h ∧
          exec (.getHumidity 0) s =
            .next (succeeded (BitVec.ofInt 32 h) ((f2.msb ++ f2.lsb ++ f2.crc).setWidth 32) s))

/-- R180, R185: three acquisitions; either neighbour of the exact pressure and of the exact dew point; MATH_DOMAIN_ERROR
exactly for a humidity not above zero. The draw counter (log entry 6) may take any value. -/
def Obligations.GetDewpointCMeasuresThreeTimes : Prop :=
  ∀ (s : State),
    decodeCmd 0x00001500 = .ok (.getDewpointC 0) ∧
    (∀ arg, arg ≠ 0 → RejectsArgument (.getDewpointC arg) s) ∧
    AcquiresAfter (.getDewpointC 0) .t ((s.lCtrl &&& 0x10).setWidth 8) s [] ∧
    (∀ f1, accepted s f1 = true →
      AcquiresAfter (.getDewpointC 0) .t ((s.lCtrl &&& 0x10).setWidth 8) s (frameAnswers f1) ∧
      ∀ f2, accepted s f2 = true →
        AcquiresAfter (.getDewpointC 0) .rh ((s.lCtrl &&& 0x10).setWidth 8) s
          (frameAnswers f1 ++ frameAnswers f2) ∧
        ∀ f3, accepted s f3 = true → AtStep s (frameAnswers f1 ++ frameAnswers f2 ++ frameAnswers f3) →
          ∃ h : Int, humComp (tempC (rawOf f2)) (humRaw (rawOf f3)) = some h ∧
            (h ≤ 0 → ∃ n : Nat, exec (.getDewpointC 0) s =
              .next (failed .mathDomainError { s with draws := n })) ∧
            (0 < h → ∃ (p r : Int) (n : Nat), InFR (svpReal (tempC (rawOf f1))) 0 (2 ^ 32 - 1) p ∧
              InFR (dewReal h p) (-2 ^ 31) (2 ^ 31 - 1) r ∧
              exec (.getDewpointC 0) s =
                .next (succeeded (BitVec.ofInt 32 r) ((f3.msb ++ f3.lsb ++ f3.crc).setWidth 32)
                  { s with draws := n })))

/-- R181 -/
def Obligations.GetDewpointFMeasuresThreeTimes : Prop :=
  ∀ (s : State),
    decodeCmd 0x00001600 = .ok (.getDewpointF 0) ∧
    (∀ arg, arg ≠ 0 → RejectsArgument (.getDewpointF arg) s) ∧
    AcquiresAfter (.getDewpointF 0) .t ((s.lCtrl &&& 0x10).setWidth 8) s [] ∧
    (∀ f1, accepted s f1 = true →
      AcquiresAfter (.getDewpointF 0) .t ((s.lCtrl &&& 0x10).setWidth 8) s (frameAnswers f1) ∧
      ∀ f2, accepted s f2 = true →
        AcquiresAfter (.getDewpointF 0) .rh ((s.lCtrl &&& 0x10).setWidth 8) s
          (frameAnswers f1 ++ frameAnswers f2) ∧
        ∀ f3, accepted s f3 = true → AtStep s (frameAnswers f1 ++ frameAnswers f2 ++ frameAnswers f3) →
          ∃ h : Int, humComp (tempC (rawOf f2)) (humRaw (rawOf f3)) = some h ∧
            (h ≤ 0 → ∃ n : Nat, exec (.getDewpointF 0) s =
              .next (failed .mathDomainError { s with draws := n })) ∧
            (0 < h → ∃ (p r v : Int) (n : Nat), InFR (svpReal (tempC (rawOf f1))) 0 (2 ^ 32 - 1) p ∧
              InFR (dewReal h p) (-2 ^ 31) (2 ^ 31 - 1) r ∧ tempF r = some v ∧
              exec (.getDewpointF 0) s =
                .next (succeeded (BitVec.ofInt 32 v) ((f3.msb ++ f3.lsb ++ f3.crc).setWidth 32)
                  { s with draws := n })))

/-- R182 -/
def Obligations.CrcCheckReturnsTheRemainder : Prop :=
  ∀ (s : State),
    decodeCmd 0x00001700 = .ok (.crcCheck 0) ∧
    (∀ arg, arg ≠ 0 → RejectsArgument (.crcCheck arg) s) ∧
    (s.lOpa.extractLsb' 24 8 ≠ 0 → RejectsArgument (.crcCheck 0) s) ∧
    (s.lOpa.extractLsb' 24 8 = 0 → AtStep s [] →
      exec (.crcCheck 0) s =
        .next (succeeded
          ((crcRem ⟨s.lOpa.extractLsb' 16 8, s.lOpa.extractLsb' 8 8, s.lOpa.extractLsb' 0 8⟩).setWidth 32) 0 s))

/-! ### Converter commands -/

/-- R220: the operand is not masked. -/
def Obligations.ConvTempCConvertsTheUnmaskedCode : Prop :=
  ∀ (s : State),
    decodeCmd 0x00002000 = .ok (.convTempC 0) ∧
    (∀ arg, arg ≠ 0 → RejectsArgument (.convTempC arg) s) ∧
    (0xFFFF < s.lOpa.toNat → RejectsArgument (.convTempC 0) s) ∧
    (s.lOpa.toNat ≤ 0xFFFF → AtStep s [] →
      exec (.convTempC 0) s =
        .next (succeeded (BitVec.ofInt 32 (rdiv (s.lOpa.toNat * 175720) 65536 - 46850)) 0 s))

/-- R221 -/
def Obligations.ConvTempFConvertsOrRaises : Prop :=
  ∀ (s : State),
    decodeCmd 0x00002100 = .ok (.convTempF 0) ∧
    (∀ arg, arg ≠ 0 → RejectsArgument (.convTempF arg) s) ∧
    (1193028693 < s.lOpa.toInt ∨ s.lOpa.toInt < -1193064249 → AtStep s [] →
      exec (.convTempF 0) s = .next (failed .mathDomainError s)) ∧
    (-1193064249 ≤ s.lOpa.toInt → s.lOpa.toInt ≤ 1193028693 → AtStep s [] →
      exec (.convTempF 0) s =
        .next (succeeded (BitVec.ofInt 32 (rdiv (9 * s.lOpa.toInt) 5 + 32000)) 0 s))

/-- R222 -/
def Obligations.ConvHumRawConvertsTheUnmaskedCode : Prop :=
  ∀ (s : State),
    decodeCmd 0x00002200 = .ok (.convHumRaw 0) ∧
    (∀ arg, arg ≠ 0 → RejectsArgument (.convHumRaw arg) s) ∧
    (0xFFFF < s.lOpa.toNat → RejectsArgument (.convHumRaw 0) s) ∧
    (s.lOpa.toNat ≤ 0xFFFF → AtStep s [] →
      exec (.convHumRaw 0) s =
        .next (succeeded (BitVec.ofInt 32 (rdiv (s.lOpa.toNat * 125000) 65536 - 6000)) 0 s))

/-- R223 -/
def Obligations.ConvHumCompCompensatesOutsideTheBand : Prop :=
  ∀ (s : State),
    decodeCmd 0x00002300 = .ok (.convHumComp 0) ∧
    (∀ arg, arg ≠ 0 → RejectsArgument (.convHumComp arg) s) ∧
    (AtStep s [] →
      (0 ≤ s.lOpa.toInt ∧ s.lOpa.toInt ≤ 80000 →
        exec (.convHumComp 0) s = .next (succeeded s.lOpb 0 s)) ∧
      (s.lOpa.toInt < 0 ∨ 80000 < s.lOpa.toInt →
        ∀ v : Int, v = s.lOpb.toInt + rdiv ((s.lOpa.toInt - 25000) * 15) 100 →
          (-2 ^ 31 ≤ v ∧ v < 2 ^ 31 → exec (.convHumComp 0) s = .next (succeeded (BitVec.ofInt 32 v) 0 s)) ∧
          (v < -2 ^ 31 ∨ 2 ^ 31 ≤ v → exec (.convHumComp 0) s = .next (failed .mathDomainError s))))

/-- R224: either neighbour of the exact pressure, over the reals; MATH_DOMAIN_ERROR exactly at and below -235660 and from
155962 up. The draw counter (log entry 6) may take any value. -/
def Obligations.ConvSvpReturnsANeighbourOfThePressure : Prop :=
  ∀ (s : State),
    decodeCmd 0x00002400 = .ok (.convSvp 0) ∧
    (∀ arg, arg ≠ 0 → RejectsArgument (.convSvp arg) s) ∧
    (s.lOpa.toInt ≤ -235660 ∨ 155962 ≤ s.lOpa.toInt → AtStep s [] →
      ∃ n : Nat, exec (.convSvp 0) s = .next (failed .mathDomainError { s with draws := n })) ∧
    (-235660 < s.lOpa.toInt → s.lOpa.toInt < 155962 → AtStep s [] →
      ∃ (r : Int) (n : Nat), InFR (svpReal s.lOpa.toInt) 0 (2 ^ 32 - 1) r ∧
        exec (.convSvp 0) s =
          .next (succeeded (BitVec.ofInt 32 r) 0 { s with draws := n }))

/-- R225: either neighbour of the exact dew point, over the reals; OPA does not matter. The draw counter (log entry 6) may
take any value. -/
def Obligations.ConvDewCReturnsANeighbourOfTheDewPoint : Prop :=
  ∀ (s : State),
    decodeCmd 0x00002500 = .ok (.convDewC 0) ∧
    (∀ arg, arg ≠ 0 → RejectsArgument (.convDewC arg) s) ∧
    (s.lOpb.toInt ≤ 0 ∨ s.lOpc = 0 → AtStep s [] →
      ∃ n : Nat, exec (.convDewC 0) s = .next (failed .mathDomainError { s with draws := n })) ∧
    (0 < s.lOpb.toInt → s.lOpc ≠ 0 → AtStep s [] →
      ∃ (r : Int) (n : Nat), InFR (dewReal s.lOpb.toInt s.lOpc.toNat) (-2 ^ 31) (2 ^ 31 - 1) r ∧
        exec (.convDewC 0) s =
          .next (succeeded (BitVec.ofInt 32 r) 0 { s with draws := n }))

/-- R226 -/
def Obligations.ConvDewFConvertsOrRaises : Prop :=
  ∀ (s : State),
    decodeCmd 0x00002600 = .ok (.convDewF 0) ∧
    (∀ arg, arg ≠ 0 → RejectsArgument (.convDewF arg) s) ∧
    (1193028693 < s.lOpa.toInt ∨ s.lOpa.toInt < -1193064249 → AtStep s [] →
      exec (.convDewF 0) s = .next (failed .mathDomainError s)) ∧
    (-1193064249 ≤ s.lOpa.toInt → s.lOpa.toInt ≤ 1193028693 → AtStep s [] →
      exec (.convDewF 0) s =
        .next (succeeded (BitVec.ofInt 32 (rdiv (9 * s.lOpa.toInt) 5 + 32000)) 0 s))

/-! ### Wire commands and the port -/

/-- R120, R69, R71: with no transaction outstanding, each wire command issues its transaction at DEV_ADDR, after ACQUIRE
if the bus is not held. -/
def Obligations.WireCommandsIssueTheirTransaction : Prop :=
  ∀ (s : State), (∀ t, s.port ≠ .outstanding t) →
    exec .wireTrigTHold s = .next (issued (.write1 s.devaddr 0xE3) s) ∧
    exec .wireTrigTNohold s = .next (issued (.write1 s.devaddr 0xF3) s) ∧
    exec .wireTrigRhHold s = .next (issued (.write1 s.devaddr 0xE5) s) ∧
    exec .wireTrigRhNohold s = .next (issued (.write1 s.devaddr 0xF5) s) ∧
    (∀ d, exec (.wireWriteUserReg d) s = .next (issued (.write2 s.devaddr 0xE6 d) s)) ∧
    exec .wireReadUserReg s = .next (issued (.write1 s.devaddr 0xE7) s) ∧
    exec .wireSoftReset s = .next (issued (.write1 s.devaddr 0xFE) s)

/-- R41, R61: at a position of a running command, a step is `exec` of the instruction its word decodes to, followed in
the same step by the port's drive of the transaction asked for; an input `tick` before it is consumed; a result that asks
for nothing stays as it is. -/
def Obligations.StepRunsTheDecodedCommand : Prop :=
  ∀ (s : State) (got : List Answer) (i : Instr), AtStep s got → decodeCmd s.lCmd = .ok i →
    (s.inputs = [] → step s = thenDrive (exec i s)) ∧
    (∀ rest, s.inputs = .tick :: rest → step s = thenDrive (exec i { s with inputs := rest })) ∧
    (∀ t : State, (∀ op, t.port ≠ .requested op) → thenDrive (.next t) = .next t)

/-- R41, R72: when the port holds the bytes of a wire command, a step is `exec` of that instruction; and what a running
command asks for is driven as the wire command its bytes decode to. -/
def Obligations.StepRunsTheRequestedWireCommand : Prop :=
  ∀ (s : State) (op : BusOp) (bytes : List Byte) (i : Instr),
    s.port = .requested op → wireBytesOf op = some bytes → decode (.wire bytes) = .ok i →
    (s.inputs = [] → step s = exec i s) ∧
    (∀ rest, s.inputs = .tick :: rest → step s = exec i { s with inputs := rest }) ∧
    thenDrive (.next s) = exec i s

/-- R41, R69, R71: a running command that asks for a transaction gets it issued in the same step: at DEV_ADDR, after
ACQUIRE if it is the command's first. -/
def Obligations.TransactionsAreIssuedInTheAskingStep : Prop :=
  ∀ (s : State) (got : List Answer) (i : Instr) (op : BusOp),
    AtStep s got → s.inputs = [] → decodeCmd s.lCmd = .ok i → exec i s = .next (asking op s) →
    (∀ b, op = .write1 b → b ∈ oneByteCommands → step s = .next (issued (.write1 s.devaddr b) s)) ∧
    (∀ d, op = .write2 0xE6 d → step s = .next (issued (.write2 s.devaddr 0xE6 d) s)) ∧
    (op = .read1 → step s = .next (issued (.read1 s.devaddr) s)) ∧
    (∀ ms, op = .sleep ms → step s = .next (issued (.sleep ms) s))

/-- R66, R67: the transport's answer to the outstanding transaction: a write answers `ok` or `err`, a read `ok(byte)` or
`err`, a sleep always `ok`; the position moves past it. With none outstanding the answer changes nothing (R291). -/
def Obligations.AnswersAdvanceTheCommand : Prop :=
  ∀ (s : State) (e : Bool) (b : Byte) (rest : List Input) (got : List Answer),
    s.inputs = .answer e b :: rest → s.seq = .run got →
    (∀ a c, s.port = .outstanding (.write1 a c) →
      step s = .next { s with
        inputs := rest, port := .idle
        trace := s.trace ++ [.answer (if e then .err else .ok)]
        seq := .run (got ++ [if e then .err else .ok]) }) ∧
    (∀ a c d, s.port = .outstanding (.write2 a c d) →
      step s = .next { s with
        inputs := rest, port := .idle
        trace := s.trace ++ [.answer (if e then .err else .ok)]
        seq := .run (got ++ [if e then .err else .ok]) }) ∧
    (∀ a, s.port = .outstanding (.read1 a) →
      step s = .next { s with
        inputs := rest, port := .idle
        trace := s.trace ++ [.answer (if e then .err else .okByte b)]
        seq := .run (got ++ [if e then .err else .okByte b]) }) ∧
    (∀ ms, s.port = .outstanding (.sleep ms) →
      step s = .next { s with
        inputs := rest, port := .idle
        trace := s.trace ++ [.answer .ok]
        seq := .run (got ++ [.ok]) }) ∧
    ((∀ t, s.port ≠ .outstanding t) → step s = .next { s with inputs := rest })

/-- R68, R41: while a transaction is unanswered HTSC waits: a step with nothing arriving changes nothing, and a CMD write
only sets COLLISION. -/
def Obligations.UnansweredTransactionKeepsWaiting : Prop :=
  ∀ (s : State) (t : Txn), s.port = .outstanding t →
    (s.inputs = [] → step s = .next s) ∧
    (∀ rest, s.inputs = .tick :: rest → step s = .next { s with inputs := rest }) ∧
    (∀ w rest, s.busy = true → s.inputs = .hostWrite (regAccess .cmd) w :: rest →
      step s = .next { s with inputs := rest, collision := true })

/-! ### Host port -/

/-- R45, R46: a CMD write is accepted while BUSY = 0 and only sets COLLISION while BUSY = 1. -/
def Obligations.CmdWriteIsAcceptedOrRejected : Prop :=
  ∀ (s : State) (w : Word) (rest : List Input), s.inputs = .hostWrite (regAccess .cmd) w :: rest →
    (s.busy = false → step s = .next { afterAccept w s with inputs := rest }) ∧
    (s.busy = true → step s = .next { s with inputs := rest, collision := true })

/-- R21, R22, R27, R30, R31, R32, R33, R64: what a read of each offset returns, with no other effect. -/
def Obligations.HostReadsReturnTheRegister : Prop :=
  ∀ (s : State) (a : Access) (rest : List Input),
    a.wellFormed = true → s.inputs = .hostRead a :: rest →
    ∃ v : Word, step s = .next { s with inputs := rest, rdata := v } ∧
      (a.off = 0x00 → v = s.lCmd) ∧
      (a.off = 0x04 →
        v.getLsbD 0 = s.busy ∧ v.getLsbD 1 = s.done ∧ v.getLsbD 2 = s.collision ∧ v.getLsbD 3 = false ∧
        v.extractLsb' 4 3 = errBits s.err ∧ v.extractLsb' 7 25 = 0) ∧
      (a.off = 0x08 → v = s.ctrl) ∧
      (a.off = 0x0C → v = s.devaddr.setWidth 32) ∧
      (a.off = 0x10 → v = s.opa) ∧
      (a.off = 0x14 → v = s.opb) ∧
      (a.off = 0x18 → v = s.opc) ∧
      (a.off = 0x20 → v = s.res0) ∧
      (a.off = 0x24 → v = s.res1) ∧
      (a.off ∈ [0x1C, 0x28, 0x2C, 0x30, 0x34, 0x38, 0x3C] → v = 0)

/-- R22, R27, R30, R31, R32, R33, R65: what a write to each offset other than CMD's does. -/
def Obligations.HostWritesStoreOrAreIgnored : Prop :=
  ∀ (s : State) (a : Access) (v : Word) (rest : List Input),
    a.wellFormed = true → s.inputs = .hostWrite a v :: rest →
    (a.off = 0x08 → step s = .next { s with inputs := rest, ctrl := v &&& 0x00000011 }) ∧
    (a.off = 0x10 → step s = .next { s with inputs := rest, opa := v }) ∧
    (a.off = 0x14 → step s = .next { s with inputs := rest, opb := v }) ∧
    (a.off = 0x18 → step s = .next { s with inputs := rest, opc := v }) ∧
    (a.off ∈ [0x04, 0x0C, 0x20, 0x24, 0x1C, 0x28, 0x2C, 0x30, 0x34, 0x38, 0x3C] →
      step s = .next { s with inputs := rest })

/-- R62: exactly the accesses that are misaligned, outside 0x00..0x3C, not 32 bits wide or with partial byte enables are
refused, for reads and writes alike. -/
def Obligations.UndefinedAccessesAreRefused : Prop :=
  ∀ (s : State) (a : Access) (v : Word) (rest : List Input),
    (s.inputs = .hostRead a :: rest →
      (a.off % 4 ≠ 0 ∨ 0x3C < a.off ∨ a.width ≠ 32 ∨ a.lanes ≠ 0xF ↔
        step s = .refused (.undefinedHostAccess a))) ∧
    (s.inputs = .hostWrite a v :: rest →
      (a.off % 4 ≠ 0 ∨ 0x3C < a.off ∨ a.width ≠ 32 ∨ a.lanes ≠ 0xF ↔
        step s = .refused (.undefinedHostAccess a)))

/-! ### Reset -/

/-- R43, R290: the state after reset. -/
def Obligations.ResetLeavesTheSpecsValues : Prop :=
  State.reset.lCmd = 0 ∧ statusWord State.reset = 0 ∧ State.reset.ctrl = 0 ∧
  readReg .devaddr State.reset = Config.devAddr.setWidth 32 ∧
  State.reset.opa = 0 ∧ State.reset.opb = 0 ∧ State.reset.opc = 0 ∧ State.reset.res0 = 0 ∧ State.reset.res1 = 0 ∧
  State.reset.lCtrl = 0 ∧ State.reset.lOpa = 0 ∧ State.reset.lOpb = 0 ∧ State.reset.lOpc = 0 ∧
  State.reset.seq = .idle ∧ State.reset.busHeld = false ∧ State.reset.port = .idle

/-- R290, R291: the reset input in any state: every register at its reset value, the running command abandoned, RELEASE
recorded if the bus was held, nothing issued, and a late answer discarded. -/
def Obligations.ResetAbandonsTheRunningCommand : Prop :=
  ∀ (s : State) (rest : List Input), s.inputs = .reset :: rest →
    ∃ t : State, step s = .next t ∧
      t.lCmd = 0 ∧ statusWord t = 0 ∧ t.ctrl = 0 ∧ t.devaddr = s.devaddr ∧
      t.opa = 0 ∧ t.opb = 0 ∧ t.opc = 0 ∧ t.res0 = 0 ∧ t.res1 = 0 ∧
      t.lCtrl = 0 ∧ t.lOpa = 0 ∧ t.lOpb = 0 ∧ t.lOpc = 0 ∧
      t.seq = .idle ∧ t.busHeld = false ∧ t.port = .idle ∧ t.inputs = rest ∧
      t.trace = (if s.busHeld then s.trace ++ [.release] else s.trace) ∧
      ∀ e b more, rest = .answer e b :: more → step t = .next { t with inputs := more }

/-! ### Every instruction: frame, completion, isolation -/

/-- R31, R32, R40, R250: what no instruction changes (DEVADDR, the latches, CTRL, the operand registers, COLLISION, the
inputs, the host's word), that RES0 and RES1 change only in the step that ends a command with success, and that the
trace only grows. -/
def Obligations.NoInstructionChangesTheOtherRegisters : Prop :=
  ∀ (i : Instr) (s t : State), exec i s = .next t →
    (t.devaddr = s.devaddr ∧ t.lCmd = s.lCmd ∧ t.lCtrl = s.lCtrl ∧ t.lOpa = s.lOpa ∧ t.lOpb = s.lOpb ∧
      t.lOpc = s.lOpc ∧ t.ctrl = s.ctrl ∧ t.opa = s.opa ∧ t.opb = s.opb ∧ t.opc = s.opc ∧
      t.collision = s.collision ∧ t.inputs = s.inputs ∧ t.rdata = s.rdata) ∧
    (t.res0 ≠ s.res0 ∨ t.res1 ≠ s.res1 →
      s.seq ≠ .idle ∧ t.seq = .idle ∧ t.err = .none ∧ t.busy = false ∧ t.done = true ∧ t.busHeld = false) ∧
    s.trace <+: t.trace

/-- R40, R298: a running command reads only its latches: with any other values in CTRL, OPA, OPB and OPC, every
instruction does the same and leaves those values in place. -/
def Obligations.CommandsReadOnlyTheirLatches : Prop :=
  ∀ (i : Instr) (s t : State) (c a b d : Word), exec i s = .next t →
    exec i { s with ctrl := c, opa := a, opb := b, opc := d } =
      .next { t with ctrl := c, opa := a, opb := b, opc := d }

/-- R303: a command ends by the time its table's number of transactions has been answered, whatever the answers. -/
def Obligations.CommandsEndWithinTheirTransactionCount : Prop :=
  ∀ (i : Instr) (n : Nat) (s : State) (got : List Answer),
    transactionsOf i = some n → AtStep s got → n ≤ got.length →
    ∃ t, exec i s = .next t ∧ t.seq = .idle ∧ t.busy = false ∧ t.done = true

/-! ### Invariants of every step -/

/-- The invariant holds after reset (R43). -/
def Obligations.InvariantHoldsAtReset : Prop := Inv State.reset

/-- R23, R24, R26, R27, R40, R69, R70, R71, R72: every step, of every agent, keeps the invariant. -/
def Obligations.EveryStepKeepsTheInvariant : Prop :=
  ∀ (s t : State), Inv s → step s = .next t → Inv t

/-- R72, R261: under the invariant no step faults, and only an undefined host access is refused (R62). -/
def Obligations.InvariantStatesStepSafely : Prop :=
  ∀ (s : State), Inv s →
    Safe s ∧
    ∀ r, step s = .refused r → ∃ a, a.wellFormed = false ∧ r = .undefinedHostAccess a

/-- R35: a command's position moves forward only, by one answer at a time, until the command ends. -/
def Obligations.StepPointerMovesForward : Prop :=
  ∀ (s t : State) (got : List Answer), Inv s → s.seq = .run got → step s = .next t →
    t.seq = .idle ∨ t.seq = .run got ∨ ∃ a, t.seq = .run (got ++ [a])

/-- R25: COLLISION is set only by a CMD write that finds BUSY = 1, and cleared only by an accepted CMD write or a reset. -/
def Obligations.OnlyCmdWritesAndResetChangeCollision : Prop :=
  ∀ (s t : State), step s = .next t → t.collision ≠ s.collision →
    (t.collision = true ∧ s.busy = true ∧
      ∃ a v rest, s.inputs = .hostWrite a v :: rest ∧ a.off = 0x00) ∨
    (t.collision = false ∧
      ((s.busy = false ∧ ∃ a v rest, s.inputs = .hostWrite a v :: rest ∧ a.off = 0x00) ∨
        ∃ rest, s.inputs = .reset :: rest))

/-! ### Whole commands -/

/-- R45, R69, R70, R142, R147: SET_RESOLUTION from the CMD write to its end, with the transport's answers between: the
trace, the results and the status. -/
def Obligations.SetResolutionWholeRun : Prop :=
  ∀ (s : State) (r old b1 b3 : Byte) (rest : List Input),
    r = 0x00 ∨ r = 0x01 ∨ r = 0x80 ∨ r = 0x81 →
    s.busy = false → s.port = .idle → s.busHeld = false →
    s.inputs = .hostWrite (regAccess .cmd) (0x00000300 ||| r.setWidth 32) :: .tick :: .answer false b1 :: .tick ::
      .answer false old :: .tick :: .answer false b3 :: .tick :: rest →
    Host.Core.run core 8 s = .next
      { s with
        lCmd := 0x00000300 ||| r.setWidth 32, lCtrl := s.ctrl, lOpa := s.opa, lOpb := s.opb, lOpc := s.opc,
        done := true, collision := false, err := .none, seq := .idle,
        res0 := ((old &&& 0x7E) ||| r).setWidth 32, res1 := old.setWidth 32,
        trace := s.trace ++
          [.acquire, .issue (.write1 s.devaddr 0xE7), .answer .ok,
            .issue (.read1 s.devaddr), .answer (.okByte old),
            .issue (.write2 s.devaddr 0xE6 ((old &&& 0x7E) ||| r)), .answer .ok, .release],
        inputs := rest }

/-- R45, R69, R70, R171, R174, R177: GET_TEMPERATURE_C in hold mode from the CMD write to its end. -/
def Obligations.GetTemperatureCWholeRun : Prop :=
  ∀ (s : State) (f : Frame) (b1 b2 : Byte) (rest : List Input),
    s.busy = false → s.port = .idle → s.busHeld = false → s.ctrl.getLsbD 4 = false →
    (s.ctrl.getLsbD 0 = true → crcRem f = 0) →
    s.inputs = .hostWrite (regAccess .cmd) 0x00001200 :: .tick :: .answer false b1 :: .tick :: .answer false b2 ::
      .tick :: .answer false f.msb :: .tick :: .answer false f.lsb :: .tick :: .answer false f.crc :: .tick :: rest →
    Host.Core.run core 12 s = .next
      { s with
        lCmd := 0x00001200, lCtrl := s.ctrl, lOpa := s.opa, lOpb := s.opb, lOpc := s.opc,
        done := true, collision := false, err := .none, seq := .idle,
        res0 := BitVec.ofInt 32 (tempC (rawOf f)), res1 := (f.msb ++ f.lsb ++ f.crc).setWidth 32,
        trace := s.trace ++
          [.acquire, .issue (.write1 s.devaddr 0xE3), .answer .ok, .issue (.sleep 300), .answer .ok,
            .issue (.read1 s.devaddr), .answer (.okByte f.msb), .issue (.read1 s.devaddr),
            .answer (.okByte f.lsb), .issue (.read1 s.devaddr), .answer (.okByte f.crc), .release],
        inputs := rest }

/-- R80, R142, R148, E7: with the reference sensor attached, SET_RESOLUTION then READ_CONFIG reads the code back, and
every other bit of the register as it was. The reference sensor is the spec's test device, not HTSC. -/
def Obligations.ResolutionReadsBackFromTheReferenceSensor : Prop :=
  ∀ (s : State) (q : RefSensor) (r : Byte),
    r = 0x00 ∨ r = 0x01 ∨ r = 0x80 ∨ r = 0x81 →
    s.busy = false → s.port = .idle →
    s.inputs = [.hostWrite (regAccess .cmd) (0x00000300 ||| r.setWidth 32), .tick, .tick, .tick, .tick,
      .hostWrite (regAccess .cmd) 0x00000100] →
    ∃ t q', closedRun 14 (s, q) = .next (t, q') ∧ t.err = .none ∧ t.busy = false ∧ t.done = true ∧
      t.res0 = ((userReg q &&& 0x7E) ||| r).setWidth 32

/-! ### Checksum -/

/-- R173: the division leaves nothing above bit 7, a frame is valid exactly when its checksum byte is the CRC-8 of the
other two, and the worked triple is valid. -/
def Obligations.FrameIsValidExactlyWithItsChecksum : Prop :=
  (∀ f : Frame, crcRem24 f = (crcRem f).setWidth 24) ∧
  (∀ f : Frame, crcRem f = 0 ↔ f.crc = crc8 f.msb f.lsb) ∧
  crcRem ⟨0x68, 0x3A, 0x7C⟩ = 0

/-- R184: flipping any one bit of a valid frame makes the remainder nonzero. -/
def Obligations.SingleBitErrorsAreDetected : Prop :=
  ∀ (f g : Frame) (k : Nat), crcRem f = 0 → k < 24 →
    g.msb ++ g.lsb ++ g.crc = (f.msb ++ f.lsb ++ f.crc) ^^^ (1#24 <<< k) → crcRem g ≠ 0

/-! ### Conversions -/

/-- R211: `rdiv` is the nearest integer, ties toward plus infinity. -/
def Obligations.RdivIsTheNearestInteger : Prop :=
  (∀ n d : Int, 0 < d → 2 * n - d < 2 * (d * rdiv n d) ∧ 2 * (d * rdiv n d) ≤ 2 * n + d) ∧
  rdiv 7 2 = 4 ∧ rdiv (-7) 2 = -3 ∧ rdiv (-1077750) 100 = -10777 ∧ rdiv 9 5 = 2

/-- R213, R215: TEMPC and HUMRAW are the formulas rounded once, and their ranges. -/
def Obligations.RawConversionsAreRoundedOnce : Prop :=
  ∀ raw : Raw,
    (-32768 < 65536 * (tempC raw + 46850) - raw.toNat * 175720 ∧
      65536 * (tempC raw + 46850) - raw.toNat * 175720 ≤ 32768) ∧
    (-32768 < 65536 * (humRaw raw + 6000) - raw.toNat * 125000 ∧
      65536 * (humRaw raw + 6000) - raw.toNat * 125000 ≤ 32768) ∧
    (-46850 ≤ tempC raw ∧ tempC raw ≤ 128867) ∧ (-6000 ≤ humRaw raw ∧ humRaw raw ≤ 118998) ∧
    tempC 0 = -46850 ∧ tempC 65532 = 128859 ∧ tempC 65535 = 128867 ∧
    humRaw 65532 = 118992 ∧ humRaw 65535 = 118998

/-- R214, R227: TEMPF is within 0.4 milli-°F of the formula, and raises exactly outside its stated range. -/
def Obligations.FahrenheitIsWithinTwoFifths : Prop :=
  ∀ c : Int,
    (-1193064249 ≤ c ∧ c ≤ 1193028693 →
      ∃ v, tempF c = some v ∧ -2 ≤ 5 * v - (9 * c + 160000) ∧ 5 * v - (9 * c + 160000) ≤ 2) ∧
    (c < -1193064249 ∨ 1193028693 < c → tempF c = none)

/-- R216, R227: HUMCOMP leaves the closed band alone and otherwise adds the correction rounded once, raising exactly when
the sum leaves s32. -/
def Obligations.CompensationIsRoundedOnce : Prop :=
  ∀ t h : Int,
    (0 ≤ t ∧ t ≤ 80000 → humComp t h = some h) ∧
    (t < 0 ∨ 80000 < t →
      ∃ d : Int, -50 < 100 * d - (t - 25000) * 15 ∧ 100 * d - (t - 25000) * 15 ≤ 50 ∧
        (-2 ^ 31 ≤ h + d ∧ h + d ≤ 2 ^ 31 - 1 → humComp t h = some (h + d)) ∧
        (h + d < -2 ^ 31 ∨ 2 ^ 31 - 1 < h + d → humComp t h = none))

/-- R212, R217: over the reals, the values SVP can return are exactly the neighbours of the exact pressure that fit u32,
and it raises exactly at the blow-up point and where there is none. -/
def Obligations.SvpReturnsExactlyTheNeighbours : Prop :=
  ∀ t : Int,
    (∀ r : Int, (∃ up, svp up t = some r) ↔ t ≠ -235660 ∧ InFR (svpReal t) 0 (2 ^ 32 - 1) r) ∧
    ((∃ up, svp up t = none) ↔ t = -235660 ∨ ∀ r : Int, ¬ InFR (svpReal t) 0 (2 ^ 32 - 1) r) ∧
    ((∃ up, svp up t = none) ↔ t ≤ -235660 ∨ 155962 ≤ t)

/-- R212, R218, R219: over the reals, for every s32 humidity and u32 pressure, the values DEW can return are exactly the
neighbours of the exact dew point, and it raises exactly when the product is not positive. -/
def Obligations.DewReturnsExactlyTheNeighbours : Prop :=
  ∀ h p : Int, -2 ^ 31 ≤ h → h ≤ 2 ^ 31 - 1 → 0 ≤ p → p ≤ 2 ^ 32 - 1 →
    (∀ r : Int, (∃ up, dew up h p = some r) ↔ 0 < h * p ∧ InFR (dewReal h p) (-2 ^ 31) (2 ^ 31 - 1) r) ∧
    ((∃ up, dew up h p = none) ↔ h * p ≤ 0)

/-- R219: on measured inputs HUMCOMP and SVP do not raise and stay in the stated ranges, and TEMPF of any dew point
fits. -/
def Obligations.MeasuredInputsStayInRange : Prop :=
  (∀ rt rh : Raw, ∃ h, humComp (tempC rt) (humRaw rh) = some h ∧ -16777 ≤ h ∧ h ≤ 134578) ∧
  (∀ (rt : Raw) (up : Bool), ∃ p, svp up (tempC rt) = some p ∧ 62950 ≤ p ∧ p ≤ 1988240725) ∧
  (∀ (h p r : Int) (up : Bool), -2 ^ 31 ≤ h → h ≤ 2 ^ 31 - 1 → 0 ≤ p → p ≤ 2 ^ 32 - 1 →
    dew up h p = some r → ∃ v, tempF r = some v)

/-- R227.4: at one pressure, two humidities whose exact dew points are at least one milli-°C apart have results in the
same order, whichever neighbours were drawn. -/
def Obligations.DewPointFollowsHumidity : Prop :=
  ∀ (h1 h2 p r1 r2 : Int) (up1 up2 : Bool),
    0 < h1 → h1 ≤ h2 → h2 ≤ 2 ^ 31 - 1 → 0 < p → p ≤ 2 ^ 32 - 1 →
    dewReal h1 p + 1 ≤ dewReal h2 p →
    dew up1 h1 p = some r1 → dew up2 h2 p = some r2 → r1 ≤ r2
end

