-- ==== Sys2Proof/Laws/State.lean ====
section
/-! SUPPORT. One lemma per field and state update, each true by unfolding, so that no later proof unfolds an update. -/

namespace Sys2Proof.Machine

/-! ### acquireBus -/

@[simp] theorem acquireBus_devaddr (s : State) :
    (acquireBus s).devaddr = s.devaddr := rfl
@[simp] theorem acquireBus_lCmd (s : State) :
    (acquireBus s).lCmd = s.lCmd := rfl
@[simp] theorem acquireBus_lCtrl (s : State) :
    (acquireBus s).lCtrl = s.lCtrl := rfl
@[simp] theorem acquireBus_lOpa (s : State) :
    (acquireBus s).lOpa = s.lOpa := rfl
@[simp] theorem acquireBus_lOpb (s : State) :
    (acquireBus s).lOpb = s.lOpb := rfl
@[simp] theorem acquireBus_lOpc (s : State) :
    (acquireBus s).lOpc = s.lOpc := rfl
@[simp] theorem acquireBus_busy (s : State) :
    (acquireBus s).busy = s.busy := rfl
@[simp] theorem acquireBus_done (s : State) :
    (acquireBus s).done = s.done := rfl
@[simp] theorem acquireBus_collision (s : State) :
    (acquireBus s).collision = s.collision := rfl
@[simp] theorem acquireBus_err (s : State) :
    (acquireBus s).err = s.err := rfl
@[simp] theorem acquireBus_ctrl (s : State) :
    (acquireBus s).ctrl = s.ctrl := rfl
@[simp] theorem acquireBus_opa (s : State) :
    (acquireBus s).opa = s.opa := rfl
@[simp] theorem acquireBus_opb (s : State) :
    (acquireBus s).opb = s.opb := rfl
@[simp] theorem acquireBus_opc (s : State) :
    (acquireBus s).opc = s.opc := rfl
@[simp] theorem acquireBus_res0 (s : State) :
    (acquireBus s).res0 = s.res0 := rfl
@[simp] theorem acquireBus_res1 (s : State) :
    (acquireBus s).res1 = s.res1 := rfl
@[simp] theorem acquireBus_seq (s : State) :
    (acquireBus s).seq = s.seq := rfl
@[simp] theorem acquireBus_busHeld (s : State) :
    (acquireBus s).busHeld = true := rfl
@[simp] theorem acquireBus_port (s : State) :
    (acquireBus s).port = s.port := rfl
@[simp] theorem acquireBus_trace (s : State) :
    (acquireBus s).trace = if s.busHeld then s.trace else s.trace ++ [.acquire] := rfl
@[simp] theorem acquireBus_inputs (s : State) :
    (acquireBus s).inputs = s.inputs := rfl
@[simp] theorem acquireBus_rdata (s : State) :
    (acquireBus s).rdata = s.rdata := rfl
@[simp] theorem acquireBus_draws (s : State) :
    (acquireBus s).draws = s.draws := rfl

/-! ### releaseBus -/

@[simp] theorem releaseBus_devaddr (s : State) :
    (releaseBus s).devaddr = s.devaddr := rfl
@[simp] theorem releaseBus_lCmd (s : State) :
    (releaseBus s).lCmd = s.lCmd := rfl
@[simp] theorem releaseBus_lCtrl (s : State) :
    (releaseBus s).lCtrl = s.lCtrl := rfl
@[simp] theorem releaseBus_lOpa (s : State) :
    (releaseBus s).lOpa = s.lOpa := rfl
@[simp] theorem releaseBus_lOpb (s : State) :
    (releaseBus s).lOpb = s.lOpb := rfl
@[simp] theorem releaseBus_lOpc (s : State) :
    (releaseBus s).lOpc = s.lOpc := rfl
@[simp] theorem releaseBus_busy (s : State) :
    (releaseBus s).busy = s.busy := rfl
@[simp] theorem releaseBus_done (s : State) :
    (releaseBus s).done = s.done := rfl
@[simp] theorem releaseBus_collision (s : State) :
    (releaseBus s).collision = s.collision := rfl
@[simp] theorem releaseBus_err (s : State) :
    (releaseBus s).err = s.err := rfl
@[simp] theorem releaseBus_ctrl (s : State) :
    (releaseBus s).ctrl = s.ctrl := rfl
@[simp] theorem releaseBus_opa (s : State) :
    (releaseBus s).opa = s.opa := rfl
@[simp] theorem releaseBus_opb (s : State) :
    (releaseBus s).opb = s.opb := rfl
@[simp] theorem releaseBus_opc (s : State) :
    (releaseBus s).opc = s.opc := rfl
@[simp] theorem releaseBus_res0 (s : State) :
    (releaseBus s).res0 = s.res0 := rfl
@[simp] theorem releaseBus_res1 (s : State) :
    (releaseBus s).res1 = s.res1 := rfl
@[simp] theorem releaseBus_seq (s : State) :
    (releaseBus s).seq = s.seq := rfl
@[simp] theorem releaseBus_busHeld (s : State) :
    (releaseBus s).busHeld = false := rfl
@[simp] theorem releaseBus_port (s : State) :
    (releaseBus s).port = s.port := rfl
@[simp] theorem releaseBus_trace (s : State) :
    (releaseBus s).trace = if s.busHeld then s.trace ++ [.release] else s.trace := rfl
@[simp] theorem releaseBus_inputs (s : State) :
    (releaseBus s).inputs = s.inputs := rfl
@[simp] theorem releaseBus_rdata (s : State) :
    (releaseBus s).rdata = s.rdata := rfl
@[simp] theorem releaseBus_draws (s : State) :
    (releaseBus s).draws = s.draws := rfl

/-! ### finish -/

@[simp] theorem finish_devaddr (code : ErrCode) (s : State) :
    (finish code s).devaddr = s.devaddr := rfl
@[simp] theorem finish_lCmd (code : ErrCode) (s : State) :
    (finish code s).lCmd = s.lCmd := rfl
@[simp] theorem finish_lCtrl (code : ErrCode) (s : State) :
    (finish code s).lCtrl = s.lCtrl := rfl
@[simp] theorem finish_lOpa (code : ErrCode) (s : State) :
    (finish code s).lOpa = s.lOpa := rfl
@[simp] theorem finish_lOpb (code : ErrCode) (s : State) :
    (finish code s).lOpb = s.lOpb := rfl
@[simp] theorem finish_lOpc (code : ErrCode) (s : State) :
    (finish code s).lOpc = s.lOpc := rfl
@[simp] theorem finish_busy (code : ErrCode) (s : State) :
    (finish code s).busy = false := rfl
@[simp] theorem finish_done (code : ErrCode) (s : State) :
    (finish code s).done = true := rfl
@[simp] theorem finish_collision (code : ErrCode) (s : State) :
    (finish code s).collision = s.collision := rfl
@[simp] theorem finish_err (code : ErrCode) (s : State) :
    (finish code s).err = code := rfl
@[simp] theorem finish_ctrl (code : ErrCode) (s : State) :
    (finish code s).ctrl = s.ctrl := rfl
@[simp] theorem finish_opa (code : ErrCode) (s : State) :
    (finish code s).opa = s.opa := rfl
@[simp] theorem finish_opb (code : ErrCode) (s : State) :
    (finish code s).opb = s.opb := rfl
@[simp] theorem finish_opc (code : ErrCode) (s : State) :
    (finish code s).opc = s.opc := rfl
@[simp] theorem finish_res0 (code : ErrCode) (s : State) :
    (finish code s).res0 = s.res0 := rfl
@[simp] theorem finish_res1 (code : ErrCode) (s : State) :
    (finish code s).res1 = s.res1 := rfl
@[simp] theorem finish_seq (code : ErrCode) (s : State) :
    (finish code s).seq = .idle := rfl
@[simp] theorem finish_busHeld (code : ErrCode) (s : State) :
    (finish code s).busHeld = false := rfl
@[simp] theorem finish_port (code : ErrCode) (s : State) :
    (finish code s).port = s.port := rfl
@[simp] theorem finish_trace (code : ErrCode) (s : State) :
    (finish code s).trace = if s.busHeld then s.trace ++ [.release] else s.trace := rfl
@[simp] theorem finish_inputs (code : ErrCode) (s : State) :
    (finish code s).inputs = s.inputs := rfl
@[simp] theorem finish_rdata (code : ErrCode) (s : State) :
    (finish code s).rdata = s.rdata := rfl
@[simp] theorem finish_draws (code : ErrCode) (s : State) :
    (finish code s).draws = s.draws := rfl

/-! ### finishOk -/

@[simp] theorem finishOk_devaddr (r0 r1 : Word) (s : State) :
    (finishOk r0 r1 s).devaddr = s.devaddr := rfl
@[simp] theorem finishOk_lCmd (r0 r1 : Word) (s : State) :
    (finishOk r0 r1 s).lCmd = s.lCmd := rfl
@[simp] theorem finishOk_lCtrl (r0 r1 : Word) (s : State) :
    (finishOk r0 r1 s).lCtrl = s.lCtrl := rfl
@[simp] theorem finishOk_lOpa (r0 r1 : Word) (s : State) :
    (finishOk r0 r1 s).lOpa = s.lOpa := rfl
@[simp] theorem finishOk_lOpb (r0 r1 : Word) (s : State) :
    (finishOk r0 r1 s).lOpb = s.lOpb := rfl
@[simp] theorem finishOk_lOpc (r0 r1 : Word) (s : State) :
    (finishOk r0 r1 s).lOpc = s.lOpc := rfl
@[simp] theorem finishOk_busy (r0 r1 : Word) (s : State) :
    (finishOk r0 r1 s).busy = false := rfl
@[simp] theorem finishOk_done (r0 r1 : Word) (s : State) :
    (finishOk r0 r1 s).done = true := rfl
@[simp] theorem finishOk_collision (r0 r1 : Word) (s : State) :
    (finishOk r0 r1 s).collision = s.collision := rfl
@[simp] theorem finishOk_err (r0 r1 : Word) (s : State) :
    (finishOk r0 r1 s).err = .none := rfl
@[simp] theorem finishOk_ctrl (r0 r1 : Word) (s : State) :
    (finishOk r0 r1 s).ctrl = s.ctrl := rfl
@[simp] theorem finishOk_opa (r0 r1 : Word) (s : State) :
    (finishOk r0 r1 s).opa = s.opa := rfl
@[simp] theorem finishOk_opb (r0 r1 : Word) (s : State) :
    (finishOk r0 r1 s).opb = s.opb := rfl
@[simp] theorem finishOk_opc (r0 r1 : Word) (s : State) :
    (finishOk r0 r1 s).opc = s.opc := rfl
@[simp] theorem finishOk_res0 (r0 r1 : Word) (s : State) :
    (finishOk r0 r1 s).res0 = r0 := rfl
@[simp] theorem finishOk_res1 (r0 r1 : Word) (s : State) :
    (finishOk r0 r1 s).res1 = r1 := rfl
@[simp] theorem finishOk_seq (r0 r1 : Word) (s : State) :
    (finishOk r0 r1 s).seq = .idle := rfl
@[simp] theorem finishOk_busHeld (r0 r1 : Word) (s : State) :
    (finishOk r0 r1 s).busHeld = false := rfl
@[simp] theorem finishOk_port (r0 r1 : Word) (s : State) :
    (finishOk r0 r1 s).port = s.port := rfl
@[simp] theorem finishOk_trace (r0 r1 : Word) (s : State) :
    (finishOk r0 r1 s).trace = if s.busHeld then s.trace ++ [.release] else s.trace := rfl
@[simp] theorem finishOk_inputs (r0 r1 : Word) (s : State) :
    (finishOk r0 r1 s).inputs = s.inputs := rfl
@[simp] theorem finishOk_rdata (r0 r1 : Word) (s : State) :
    (finishOk r0 r1 s).rdata = s.rdata := rfl
@[simp] theorem finishOk_draws (r0 r1 : Word) (s : State) :
    (finishOk r0 r1 s).draws = s.draws := rfl

/-! ### accept -/

@[simp] theorem accept_devaddr (w : Word) (s : State) :
    (accept w s).devaddr = s.devaddr := rfl
@[simp] theorem accept_lCmd (w : Word) (s : State) :
    (accept w s).lCmd = w := rfl
@[simp] theorem accept_lCtrl (w : Word) (s : State) :
    (accept w s).lCtrl = s.ctrl := rfl
@[simp] theorem accept_lOpa (w : Word) (s : State) :
    (accept w s).lOpa = s.opa := rfl
@[simp] theorem accept_lOpb (w : Word) (s : State) :
    (accept w s).lOpb = s.opb := rfl
@[simp] theorem accept_lOpc (w : Word) (s : State) :
    (accept w s).lOpc = s.opc := rfl
@[simp] theorem accept_busy (w : Word) (s : State) :
    (accept w s).busy = true := rfl
@[simp] theorem accept_done (w : Word) (s : State) :
    (accept w s).done = false := rfl
@[simp] theorem accept_collision (w : Word) (s : State) :
    (accept w s).collision = false := rfl
@[simp] theorem accept_err (w : Word) (s : State) :
    (accept w s).err = .none := rfl
@[simp] theorem accept_ctrl (w : Word) (s : State) :
    (accept w s).ctrl = s.ctrl := rfl
@[simp] theorem accept_opa (w : Word) (s : State) :
    (accept w s).opa = s.opa := rfl
@[simp] theorem accept_opb (w : Word) (s : State) :
    (accept w s).opb = s.opb := rfl
@[simp] theorem accept_opc (w : Word) (s : State) :
    (accept w s).opc = s.opc := rfl
@[simp] theorem accept_res0 (w : Word) (s : State) :
    (accept w s).res0 = s.res0 := rfl
@[simp] theorem accept_res1 (w : Word) (s : State) :
    (accept w s).res1 = s.res1 := rfl
@[simp] theorem accept_seq (w : Word) (s : State) :
    (accept w s).seq = .run [] := rfl
@[simp] theorem accept_busHeld (w : Word) (s : State) :
    (accept w s).busHeld = s.busHeld := rfl
@[simp] theorem accept_port (w : Word) (s : State) :
    (accept w s).port = s.port := rfl
@[simp] theorem accept_trace (w : Word) (s : State) :
    (accept w s).trace = s.trace := rfl
@[simp] theorem accept_inputs (w : Word) (s : State) :
    (accept w s).inputs = s.inputs := rfl
@[simp] theorem accept_rdata (w : Word) (s : State) :
    (accept w s).rdata = s.rdata := rfl
@[simp] theorem accept_draws (w : Word) (s : State) :
    (accept w s).draws = s.draws := rfl

/-! ### reject -/

@[simp] theorem reject_devaddr (s : State) :
    (reject s).devaddr = s.devaddr := rfl
@[simp] theorem reject_lCmd (s : State) :
    (reject s).lCmd = s.lCmd := rfl
@[simp] theorem reject_lCtrl (s : State) :
    (reject s).lCtrl = s.lCtrl := rfl
@[simp] theorem reject_lOpa (s : State) :
    (reject s).lOpa = s.lOpa := rfl
@[simp] theorem reject_lOpb (s : State) :
    (reject s).lOpb = s.lOpb := rfl
@[simp] theorem reject_lOpc (s : State) :
    (reject s).lOpc = s.lOpc := rfl
@[simp] theorem reject_busy (s : State) :
    (reject s).busy = s.busy := rfl
@[simp] theorem reject_done (s : State) :
    (reject s).done = s.done := rfl
@[simp] theorem reject_collision (s : State) :
    (reject s).collision = true := rfl
@[simp] theorem reject_err (s : State) :
    (reject s).err = s.err := rfl
@[simp] theorem reject_ctrl (s : State) :
    (reject s).ctrl = s.ctrl := rfl
@[simp] theorem reject_opa (s : State) :
    (reject s).opa = s.opa := rfl
@[simp] theorem reject_opb (s : State) :
    (reject s).opb = s.opb := rfl
@[simp] theorem reject_opc (s : State) :
    (reject s).opc = s.opc := rfl
@[simp] theorem reject_res0 (s : State) :
    (reject s).res0 = s.res0 := rfl
@[simp] theorem reject_res1 (s : State) :
    (reject s).res1 = s.res1 := rfl
@[simp] theorem reject_seq (s : State) :
    (reject s).seq = s.seq := rfl
@[simp] theorem reject_busHeld (s : State) :
    (reject s).busHeld = s.busHeld := rfl
@[simp] theorem reject_port (s : State) :
    (reject s).port = s.port := rfl
@[simp] theorem reject_trace (s : State) :
    (reject s).trace = s.trace := rfl
@[simp] theorem reject_inputs (s : State) :
    (reject s).inputs = s.inputs := rfl
@[simp] theorem reject_rdata (s : State) :
    (reject s).rdata = s.rdata := rfl
@[simp] theorem reject_draws (s : State) :
    (reject s).draws = s.draws := rfl

/-! ### request -/

@[simp] theorem request_devaddr (op : BusOp) (s : State) :
    (request op s).devaddr = s.devaddr := rfl
@[simp] theorem request_lCmd (op : BusOp) (s : State) :
    (request op s).lCmd = s.lCmd := rfl
@[simp] theorem request_lCtrl (op : BusOp) (s : State) :
    (request op s).lCtrl = s.lCtrl := rfl
@[simp] theorem request_lOpa (op : BusOp) (s : State) :
    (request op s).lOpa = s.lOpa := rfl
@[simp] theorem request_lOpb (op : BusOp) (s : State) :
    (request op s).lOpb = s.lOpb := rfl
@[simp] theorem request_lOpc (op : BusOp) (s : State) :
    (request op s).lOpc = s.lOpc := rfl
@[simp] theorem request_busy (op : BusOp) (s : State) :
    (request op s).busy = s.busy := rfl
@[simp] theorem request_done (op : BusOp) (s : State) :
    (request op s).done = s.done := rfl
@[simp] theorem request_collision (op : BusOp) (s : State) :
    (request op s).collision = s.collision := rfl
@[simp] theorem request_err (op : BusOp) (s : State) :
    (request op s).err = s.err := rfl
@[simp] theorem request_ctrl (op : BusOp) (s : State) :
    (request op s).ctrl = s.ctrl := rfl
@[simp] theorem request_opa (op : BusOp) (s : State) :
    (request op s).opa = s.opa := rfl
@[simp] theorem request_opb (op : BusOp) (s : State) :
    (request op s).opb = s.opb := rfl
@[simp] theorem request_opc (op : BusOp) (s : State) :
    (request op s).opc = s.opc := rfl
@[simp] theorem request_res0 (op : BusOp) (s : State) :
    (request op s).res0 = s.res0 := rfl
@[simp] theorem request_res1 (op : BusOp) (s : State) :
    (request op s).res1 = s.res1 := rfl
@[simp] theorem request_seq (op : BusOp) (s : State) :
    (request op s).seq = s.seq := rfl
@[simp] theorem request_busHeld (op : BusOp) (s : State) :
    (request op s).busHeld = s.busHeld := rfl
@[simp] theorem request_port (op : BusOp) (s : State) :
    (request op s).port = .requested op := rfl
@[simp] theorem request_trace (op : BusOp) (s : State) :
    (request op s).trace = s.trace := rfl
@[simp] theorem request_inputs (op : BusOp) (s : State) :
    (request op s).inputs = s.inputs := rfl
@[simp] theorem request_rdata (op : BusOp) (s : State) :
    (request op s).rdata = s.rdata := rfl
@[simp] theorem request_draws (op : BusOp) (s : State) :
    (request op s).draws = s.draws := rfl

/-! ### issue -/

@[simp] theorem issue_devaddr (op : BusOp) (s : State) :
    (issue op s).devaddr = s.devaddr := rfl
@[simp] theorem issue_lCmd (op : BusOp) (s : State) :
    (issue op s).lCmd = s.lCmd := rfl
@[simp] theorem issue_lCtrl (op : BusOp) (s : State) :
    (issue op s).lCtrl = s.lCtrl := rfl
@[simp] theorem issue_lOpa (op : BusOp) (s : State) :
    (issue op s).lOpa = s.lOpa := rfl
@[simp] theorem issue_lOpb (op : BusOp) (s : State) :
    (issue op s).lOpb = s.lOpb := rfl
@[simp] theorem issue_lOpc (op : BusOp) (s : State) :
    (issue op s).lOpc = s.lOpc := rfl
@[simp] theorem issue_busy (op : BusOp) (s : State) :
    (issue op s).busy = s.busy := rfl
@[simp] theorem issue_done (op : BusOp) (s : State) :
    (issue op s).done = s.done := rfl
@[simp] theorem issue_collision (op : BusOp) (s : State) :
    (issue op s).collision = s.collision := rfl
@[simp] theorem issue_err (op : BusOp) (s : State) :
    (issue op s).err = s.err := rfl
@[simp] theorem issue_ctrl (op : BusOp) (s : State) :
    (issue op s).ctrl = s.ctrl := rfl
@[simp] theorem issue_opa (op : BusOp) (s : State) :
    (issue op s).opa = s.opa := rfl
@[simp] theorem issue_opb (op : BusOp) (s : State) :
    (issue op s).opb = s.opb := rfl
@[simp] theorem issue_opc (op : BusOp) (s : State) :
    (issue op s).opc = s.opc := rfl
@[simp] theorem issue_res0 (op : BusOp) (s : State) :
    (issue op s).res0 = s.res0 := rfl
@[simp] theorem issue_res1 (op : BusOp) (s : State) :
    (issue op s).res1 = s.res1 := rfl
@[simp] theorem issue_seq (op : BusOp) (s : State) :
    (issue op s).seq = s.seq := rfl
@[simp] theorem issue_busHeld (op : BusOp) (s : State) :
    (issue op s).busHeld = true := rfl
@[simp] theorem issue_port (op : BusOp) (s : State) :
    (issue op s).port = .outstanding (addressed s.devaddr op) := rfl
@[simp] theorem issue_trace (op : BusOp) (s : State) :
    (issue op s).trace = (if s.busHeld then s.trace else s.trace ++ [.acquire]) ++
    [.issue (addressed s.devaddr op)] := rfl
@[simp] theorem issue_inputs (op : BusOp) (s : State) :
    (issue op s).inputs = s.inputs := rfl
@[simp] theorem issue_rdata (op : BusOp) (s : State) :
    (issue op s).rdata = s.rdata := rfl
@[simp] theorem issue_draws (op : BusOp) (s : State) :
    (issue op s).draws = s.draws := rfl

/-! ### resetInput -/

@[simp] theorem resetInput_devaddr (s : State) :
    (resetInput s).devaddr = s.devaddr := rfl
@[simp] theorem resetInput_lCmd (s : State) :
    (resetInput s).lCmd = 0 := rfl
@[simp] theorem resetInput_lCtrl (s : State) :
    (resetInput s).lCtrl = 0 := rfl
@[simp] theorem resetInput_lOpa (s : State) :
    (resetInput s).lOpa = 0 := rfl
@[simp] theorem resetInput_lOpb (s : State) :
    (resetInput s).lOpb = 0 := rfl
@[simp] theorem resetInput_lOpc (s : State) :
    (resetInput s).lOpc = 0 := rfl
@[simp] theorem resetInput_busy (s : State) :
    (resetInput s).busy = false := rfl
@[simp] theorem resetInput_done (s : State) :
    (resetInput s).done = false := rfl
@[simp] theorem resetInput_collision (s : State) :
    (resetInput s).collision = false := rfl
@[simp] theorem resetInput_err (s : State) :
    (resetInput s).err = .none := rfl
@[simp] theorem resetInput_ctrl (s : State) :
    (resetInput s).ctrl = 0 := rfl
@[simp] theorem resetInput_opa (s : State) :
    (resetInput s).opa = 0 := rfl
@[simp] theorem resetInput_opb (s : State) :
    (resetInput s).opb = 0 := rfl
@[simp] theorem resetInput_opc (s : State) :
    (resetInput s).opc = 0 := rfl
@[simp] theorem resetInput_res0 (s : State) :
    (resetInput s).res0 = 0 := rfl
@[simp] theorem resetInput_res1 (s : State) :
    (resetInput s).res1 = 0 := rfl
@[simp] theorem resetInput_seq (s : State) :
    (resetInput s).seq = .idle := rfl
@[simp] theorem resetInput_busHeld (s : State) :
    (resetInput s).busHeld = false := rfl
@[simp] theorem resetInput_port (s : State) :
    (resetInput s).port = .idle := rfl
@[simp] theorem resetInput_trace (s : State) :
    (resetInput s).trace = if s.busHeld then s.trace ++ [.release] else s.trace := rfl
@[simp] theorem resetInput_inputs (s : State) :
    (resetInput s).inputs = s.inputs := rfl
@[simp] theorem resetInput_rdata (s : State) :
    (resetInput s).rdata = s.rdata := rfl
@[simp] theorem resetInput_draws (s : State) :
    (resetInput s).draws = s.draws := rfl

end Sys2Proof.Machine
end

