-- ==== Sys2Proof/Laws/Ops.lean ====
section
/-! SUPPORT. What the shared operations can do, said once: the ends of a command, the phrases of the pseudocode, the run
of a pseudocode term and one sequencer step. -/

namespace Sys2Proof.Machine

open Sys2Proof.Safety

/-! ### The ends -/

theorem finish_eq_failed (code : ErrCode) (s : State) : finish code s = failed code s := rfl

theorem finishOk_eq_succeeded (r0 r1 : Word) (s : State) : finishOk r0 r1 s = succeeded r0 r1 s := rfl

theorem request_eq_asking (op : BusOp) (s : State) : request op s = asking op s := rfl

/-! ### The phrases, at the position after their answer -/

@[simp] theorem resume_nil (p : Prog) : p.resume [] = p := by cases p <;> rfl

@[simp] theorem resume_bus (op : BusOp) (next : Answer → Prog) (a : Answer) (got : List Answer) :
    (Prog.bus op next).resume (a :: got) = (next a).resume got := rfl

@[simp] theorem resume_draw (next : Bool → Prog) (got : List Answer) :
    (Prog.draw next).resume got = .draw next := by cases got <;> rfl

@[simp] theorem resume_finish (code : ErrCode) (got : List Answer) :
    (Prog.finish code).resume got = .finish code := by cases got <;> rfl

@[simp] theorem resume_finishOk (r0 r1 : Word) (got : List Answer) :
    (Prog.finishOk r0 r1).resume got = .finishOk r0 r1 := by cases got <;> rfl

@[simp] theorem resume_busWrite1_ok (b : Byte) (k : Prog) (got : List Answer) :
    (busWrite1 b k).resume (.ok :: got) = k.resume got := rfl

@[simp] theorem resume_busWrite1_err (b : Byte) (k : Prog) (got : List Answer) :
    (busWrite1 b k).resume (.err :: got) = .finish .busError := by simp [busWrite1]

@[simp] theorem resume_busWrite2_ok (c d : Byte) (k : Prog) (got : List Answer) :
    (busWrite2 c d k).resume (.ok :: got) = k.resume got := rfl

@[simp] theorem resume_busWrite2_err (c d : Byte) (k : Prog) (got : List Answer) :
    (busWrite2 c d k).resume (.err :: got) = .finish .busError := by simp [busWrite2]

@[simp] theorem resume_busRead1_okByte (k : Byte → Prog) (b : Byte) (got : List Answer) :
    (busRead1 k).resume (.okByte b :: got) = (k b).resume got := rfl

@[simp] theorem resume_busRead1_err (k : Byte → Prog) (got : List Answer) :
    (busRead1 k).resume (.err :: got) = .finish .busError := by simp [busRead1]

@[simp] theorem resume_busSleep (ms : Nat) (k : Prog) (a : Answer) (got : List Answer) :
    (busSleep ms k).resume (a :: got) = k.resume got := rfl

/-- A good frame takes the pseudocode past its acquisition (R171). -/
theorem resume_acquire (q : Quantity) (mode : Byte) (s : State) (k : Raw → Frame → Prog) (f : Frame)
    (got : List Answer) (h : accepted s f = true) :
    (acquire q mode s k).resume (frameAnswers f ++ got) = (k (maskRaw f) f).resume got := by
  have pass : ¬ (crcEnabled s = true ∧ crcRem f ≠ 0) := by
    simp only [accepted, Bool.or_eq_true, Bool.not_eq_true', beq_iff_eq] at h
    rintro ⟨h1, h2⟩
    rcases h with h | h
    · rw [h] at h1
      cases h1
    · exact h2 h
  obtain ⟨m, l, c⟩ := f
  show Prog.resume (if _ then _ else _) got = _
  rw [if_neg pass]

/-- A frame that fails the policy ends the command there (R174). -/
theorem resume_acquire_bad (q : Quantity) (mode : Byte) (s : State) (k : Raw → Frame → Prog) (f : Frame)
    (got : List Answer) (h : accepted s f = false) :
    (acquire q mode s k).resume (frameAnswers f ++ got) = .finish .checksumMismatch := by
  have fail : crcEnabled s = true ∧ crcRem f ≠ 0 := by
    simp only [accepted, Bool.or_eq_false_iff, Bool.not_eq_false', beq_eq_false_iff_ne] at h
    exact h
  obtain ⟨m, l, c⟩ := f
  show Prog.resume (if _ then _ else _) got = _
  rw [if_pos fail, resume_finish]

theorem checkArg_legal {kind : ArgKind} {arg : Byte} (p : Prog) (h : argLegal kind arg = true) :
    checkArg kind arg p = p := if_pos h

theorem checkArg_illegal {kind : ArgKind} {arg : Byte} (p : Prog) (h : argLegal kind arg = false) :
    checkArg kind arg p = .finish .invalidArgument := by simp [checkArg, h]

/-! ### Running a term, and one sequencer step -/

@[simp] theorem run_bus (op : BusOp) (next : Answer → Prog) (s : State) :
    (Prog.bus op next).run s = asking op s := rfl

@[simp] theorem run_finish (code : ErrCode) (s : State) : (Prog.finish code).run s = failed code s := rfl

@[simp] theorem run_finishOk (r0 r1 : Word) (s : State) :
    (Prog.finishOk r0 r1).run s = succeeded r0 r1 s := rfl

/-- Everything the run of a term can do: take some draws, then ask for a transaction, or end the command, or (a draw
before a transaction, which no command has) stop there. -/
theorem run_cases (p : Prog) (s : State) :
    ∃ d : Nat,
      (∃ op, p.run s = asking op { s with draws := d }) ∨
      (∃ code, p.run s = failed code { s with draws := d }) ∨
      (∃ r0 r1, p.run s = succeeded r0 r1 { s with draws := d }) ∨
      p.run s = { s with draws := d } := by
  induction p generalizing s with
  | bus op next _ => exact ⟨s.draws, .inl ⟨op, rfl⟩⟩
  | finish code => exact ⟨s.draws, .inr (.inl ⟨code, rfl⟩)⟩
  | finishOk r0 r1 => exact ⟨s.draws, .inr (.inr (.inl ⟨r0, r1, rfl⟩))⟩
  | draw next ih =>
    obtain ⟨d, h⟩ := ih (Config.roundUp s.draws) { s with draws := s.draws + 1 }
    refine ⟨d, ?_⟩
    rcases h with ⟨op, h⟩ | ⟨code, h⟩ | ⟨r0, r1, h⟩ | h
    · exact .inr (.inr (.inr (by rw [Prog.run, h]; rfl)))
    · exact .inr (.inl ⟨code, by rw [Prog.run, h]; rfl⟩)
    · exact .inr (.inr (.inl ⟨r0, r1, by rw [Prog.run, h]; rfl⟩))
    · exact .inr (.inr (.inr (by rw [Prog.run, h])))

/-- A sequencer step at a position runs the rest of the pseudocode. -/
theorem sequence_atStep (p : Prog) {s : State} {got : List Answer} (h : AtStep s got) :
    sequence p s = (p.resume got).run s := by
  obtain ⟨hseq, hport⟩ := h
  simp [sequence, hseq, hport]

/-- Everything one sequencer step can do. -/
theorem sequence_cases (p : Prog) (s : State) :
    sequence p s = s ∨ ∃ got, AtStep s got ∧ sequence p s = (p.resume got).run s := by
  unfold sequence
  split
  · exact .inl rfl
  · rename_i got hseq
    split
    · rename_i hport
      exact .inr ⟨got, ⟨hseq, hport⟩, rfl⟩
    · exact .inl rfl
    · exact .inl rfl

/-- A conversion's draw, with the value it leads to. -/
theorem run_draw (next : Bool → Prog) (s : State) :
    (Prog.draw next).run s =
      { (next (Config.roundUp s.draws)).run { s with draws := s.draws + 1 } with port := s.port } := rfl

/-! ### The port -/

theorem transmit_of_free (op : BusOp) {s : State} (h : ∀ t, s.port ≠ .outstanding t) :
    transmit op s = issue op s := by
  unfold transmit
  split
  · rename_i t ht
    exact absurd ht (h t)
  · rfl
  · rfl

/-- Everything an answer can do. -/
theorem answerTxn_cases (err : Bool) (byte : Byte) (s : State) :
    (∃ t, s.port = .outstanding t ∧
      answerTxn err byte s =
        { s with
          port := .idle
          trace := s.trace ++ [.answer (responseOf t err byte)]
          seq := advanceSeq (responseOf t err byte) s.seq }) ∨
    ((∀ t, s.port ≠ .outstanding t) ∧ answerTxn err byte s = s) := by
  unfold answerTxn
  split
  · rename_i t ht
    exact .inl ⟨t, ht, rfl⟩
  · rename_i h
    exact .inr ⟨fun t ht => (by rw [h] at ht; cases ht), rfl⟩
  · rename_i op h
    exact .inr ⟨fun t ht => (by rw [h] at ht; cases ht), rfl⟩

end Sys2Proof.Machine
end

