-- ==== Sys2Proof/Laws/Exec.lean ====
section
/-! SUPPORT. `exec` said once for all instructions: a command takes one sequencer step of its pseudocode (`exec_command`),
a wire command transmits its transaction (`exec_wire`); and what one step of the system can do (`step_cases`). -/

namespace Sys2Proof.Machine

/-- The pseudocode of a command, as a function of its argument and the latches. -/
def commandProg (s : State) : Instr → Option Prog
  | .readConfig a => some (readConfig a)
  | .writeConfig a => some (writeConfig a)
  | .setResolution a => some (setResolution a)
  | .setHeater a => some (setHeater a)
  | .setOtpReload a => some (setOtpReload a)
  | .isBatteryLow a => some (isBatteryLow a)
  | .softReset a => some (softReset a)
  | .measureRawT a => some (measureRawT a s)
  | .measureRawRh a => some (measureRawRh a s)
  | .getTemperatureC a => some (getTemperatureC a s)
  | .getTemperatureF a => some (getTemperatureF a s)
  | .getHumidity a => some (getHumidity a s)
  | .getDewpointC a => some (getDewpointC a s)
  | .getDewpointF a => some (getDewpointF a s)
  | .crcCheck a => some (crcCheck a s)
  | .convTempC a => some (convTempC a s)
  | .convTempF a => some (convTempF a s)
  | .convHumRaw a => some (convHumRaw a s)
  | .convHumComp a => some (convHumComp a s)
  | .convSvp a => some (convSvp a s)
  | .convDewC a => some (convDewC a s)
  | .convDewF a => some (convDewF a s)
  | .wireTrigTHold => none
  | .wireTrigTNohold => none
  | .wireTrigRhHold => none
  | .wireTrigRhNohold => none
  | .wireWriteUserReg _ => none
  | .wireReadUserReg => none
  | .wireSoftReset => none

/-- The transaction of a wire command (R120). -/
def wireOp : Instr → Option BusOp
  | .readConfig _ => none
  | .writeConfig _ => none
  | .setResolution _ => none
  | .setHeater _ => none
  | .setOtpReload _ => none
  | .isBatteryLow _ => none
  | .softReset _ => none
  | .measureRawT _ => none
  | .measureRawRh _ => none
  | .getTemperatureC _ => none
  | .getTemperatureF _ => none
  | .getHumidity _ => none
  | .getDewpointC _ => none
  | .getDewpointF _ => none
  | .crcCheck _ => none
  | .convTempC _ => none
  | .convTempF _ => none
  | .convHumRaw _ => none
  | .convHumComp _ => none
  | .convSvp _ => none
  | .convDewC _ => none
  | .convDewF _ => none
  | .wireTrigTHold => some (.write1 0xE3)
  | .wireTrigTNohold => some (.write1 0xF3)
  | .wireTrigRhHold => some (.write1 0xE5)
  | .wireTrigRhNohold => some (.write1 0xF5)
  | .wireWriteUserReg d => some (.write2 0xE6 d)
  | .wireReadUserReg => some (.write1 0xE7)
  | .wireSoftReset => some (.write1 0xFE)

/-- A command's meaning is one sequencer step of its pseudocode. -/
theorem exec_command {i : Instr} {s : State} {p : Prog} (h : commandProg s i = some p) :
    exec i s = .next (sequence p s) := by
  cases i <;> simp only [commandProg, Option.some.injEq, reduceCtorEq] at h <;> subst h <;> rfl

/-- A wire command's meaning is the transmission of its transaction. -/
theorem exec_wire {i : Instr} {op : BusOp} (s : State) (h : wireOp i = some op) :
    exec i s = .next (transmit op s) := by
  cases i <;> simp only [wireOp, Option.some.injEq, reduceCtorEq] at h <;> subst h <;> rfl

/-- Every instruction is one or the other. -/
theorem command_or_wire (i : Instr) (s : State) :
    (∃ p, commandProg s i = some p ∧ wireOp i = none) ∨ (∃ op, wireOp i = some op ∧ commandProg s i = none) := by
  cases i <;> first | exact .inl ⟨_, rfl, rfl⟩ | exact .inr ⟨_, rfl, rfl⟩

/-- A running command at a position takes the step of its pseudocode there. -/
theorem exec_atStep {i : Instr} {s : State} {p : Prog} {got : List Answer} (h : commandProg s i = some p)
    (hs : Safety.AtStep s got) : exec i s = .next ((p.resume got).run s) := by
  rw [exec_command h, sequence_atStep p hs]

/-- The port issues the transaction of a wire command it is asked for. -/
theorem drivePort_wire {s : State} {i : Instr} {op : BusOp} (hi : wireOp i = some op)
    (h : s.port = .requested op) : drivePort s = .next (issue op s) := by
  have free : ∀ t, s.port ≠ .outstanding t := fun t ht => (by rw [h] at ht; cases ht)
  unfold drivePort
  rw [h]
  cases i <;> simp only [wireOp, Option.some.injEq, reduceCtorEq] at hi <;> subst hi <;>
    exact congrArg _ (transmit_of_free _ free)

/-- The port issues a read as it is. -/
theorem drivePort_read1 {s : State} (h : s.port = .requested .read1) :
    drivePort s = .next (issue .read1 s) := by
  unfold drivePort
  rw [h]
  rfl

/-- The port issues a sleep as it is. -/
theorem drivePort_sleep {s : State} {ms : Nat} (h : s.port = .requested (.sleep ms)) :
    drivePort s = .next (issue (.sleep ms) s) := by
  unfold drivePort
  rw [h]
  rfl

/-- With no request in the port, the port does nothing. -/
theorem drivePort_quiet {s : State} (h : ∀ op, s.port ≠ .requested op) : drivePort s = .next s := by
  unfold drivePort
  split
  · rfl
  · rfl
  · rename_i op hop
    exact absurd hop (h op)

/-- The mode byte of the GET_* commands is one of the two modes (R29). -/
theorem modeByte_cases (s : State) : modeByte s = 0x00 ∨ modeByte s = 0x10 := by
  unfold modeByte
  generalize s.lCtrl = c
  rcases h : c.getLsbD 4 with _ | _
  · left
    ext i hi
    interval_cases i <;> simp_all
  · right
    ext i hi
    interval_cases i <;> simp_all

/-- A request HTSC can make is issued by the port as its transaction. -/
theorem drivePort_asking {s : State} {op : BusOp}
    (h : (∃ b ∈ Safety.oneByteCommands, op = .write1 b) ∨ (∃ d, op = .write2 0xE6 d) ∨ op = .read1 ∨
      ∃ ms, op = .sleep ms) :
    drivePort (Safety.asking op s) = .next (Safety.issued (addressed s.devaddr op) s) := by
  rcases h with ⟨b, hb, rfl⟩ | ⟨d, rfl⟩ | rfl | ⟨ms, rfl⟩
  · simp only [Safety.oneByteCommands, List.mem_cons, List.not_mem_nil, or_false] at hb
    rcases hb with rfl | rfl | rfl | rfl | rfl | rfl <;> rfl
  · rfl
  · rfl
  · rfl

/-- A command at a position before a transaction asks for it (R41). -/
theorem asks_of {i : Instr} {s : State} {p : Prog} {got : List Answer} {op : BusOp} {next : Answer → Prog}
    (hp : commandProg s i = some p) (hs : Safety.AtStep s got) (hr : p.resume got = .bus op next)
    (h : (∃ b ∈ Safety.oneByteCommands, op = .write1 b) ∨ (∃ d, op = .write2 0xE6 d) ∨ op = .read1 ∨
      ∃ ms, op = .sleep ms) : Safety.Asks i op s := by
  have he : exec i s = .next (Safety.asking op s) := by rw [exec_atStep hp hs, hr, run_bus]
  refine ⟨he, ?_⟩
  rw [he]
  exact drivePort_asking h

/-- What one step can be, by the input that lands. -/
theorem step_cases (s : State) :
    (s.inputs = [] ∧ step s = htscStep s) ∨
    ∃ rest,
      (s.inputs = .tick :: rest ∧ step s = htscStep { s with inputs := rest }) ∨
      (∃ a, s.inputs = .hostRead a :: rest ∧ step s = hostRead a { s with inputs := rest }) ∨
      (∃ a v, s.inputs = .hostWrite a v :: rest ∧ step s = hostWrite a v { s with inputs := rest }) ∨
      (∃ e b, s.inputs = .answer e b :: rest ∧ step s = .next (answerTxn e b { s with inputs := rest })) ∨
      (s.inputs = .reset :: rest ∧ step s = .next (resetInput { s with inputs := rest })) := by
  unfold step systemStep
  split
  · rename_i h
    exact .inl ⟨h, rfl⟩
  · rename_i rest h
    exact .inr ⟨rest, .inl ⟨h, rfl⟩⟩
  · rename_i a rest h
    exact .inr ⟨rest, .inr (.inl ⟨a, h, rfl⟩)⟩
  · rename_i a v rest h
    exact .inr ⟨rest, .inr (.inr (.inl ⟨a, v, h, rfl⟩))⟩
  · rename_i e b rest h
    exact .inr ⟨rest, .inr (.inr (.inr (.inl ⟨e, b, h, rfl⟩)))⟩
  · rename_i rest h
    exact .inr ⟨rest, .inr (.inr (.inr (.inr ⟨h, rfl⟩)))⟩

end Sys2Proof.Machine
end

