-- ==== Sys2Proof/Laws/Pow10.lean ====
section
/-! SUPPORT. What the exact comparison of Machine/Pow10.lean computes: `powCmp n b a` compares `n^b` with `10^a`
(`powCmp_eq`), and `cmpPow10` compares a natural number with a real power of ten (`cmpPow10_real`). -/

namespace Sys2Proof.Machine

/-- `x` brackets the number `v`. -/
def Brackets (x : Bracket) (v : Nat) : Prop := x.lo * 10 ^ x.e ≤ v ∧ v ≤ x.hi * 10 ^ x.e

theorem trim_brackets {x : Bracket} {v : Nat} (h : Brackets x v) : Brackets (trim x) v := by
  unfold trim
  split
  · obtain ⟨hlo, hhi⟩ := h
    constructor
    · refine le_trans ?_ hlo
      calc x.lo / 10 ^ 40 * 10 ^ (x.e + 40) = x.lo / 10 ^ 40 * 10 ^ 40 * 10 ^ x.e := by
            rw [pow_add]; ring
        _ ≤ x.lo * 10 ^ x.e := Nat.mul_le_mul_right _ (Nat.div_mul_le_self _ _)
    · refine le_trans hhi ?_
      have key : x.hi ≤ (x.hi + (10 ^ 40 - 1)) / 10 ^ 40 * 10 ^ 40 := by omega
      calc x.hi * 10 ^ x.e ≤ (x.hi + (10 ^ 40 - 1)) / 10 ^ 40 * 10 ^ 40 * 10 ^ x.e :=
            Nat.mul_le_mul_right _ key
        _ = (x.hi + (10 ^ 40 - 1)) / 10 ^ 40 * 10 ^ (x.e + 40) := by rw [pow_add]; ring
  · exact h

theorem mulBracket_brackets {x y : Bracket} {v w : Nat} (hx : Brackets x v) (hy : Brackets y w) :
    Brackets (mulBracket x y) (v * w) := by
  refine trim_brackets (trim_brackets ⟨?_, ?_⟩)
  · calc x.lo * y.lo * 10 ^ (x.e + y.e) = x.lo * 10 ^ x.e * (y.lo * 10 ^ y.e) := by rw [pow_add]; ring
      _ ≤ v * w := Nat.mul_le_mul hx.1 hy.1
  · calc v * w ≤ x.hi * 10 ^ x.e * (y.hi * 10 ^ y.e) := Nat.mul_le_mul hx.2 hy.2
      _ = x.hi * y.hi * 10 ^ (x.e + y.e) := by rw [pow_add]; ring

theorem one_brackets : Brackets ⟨1, 1, 0⟩ 1 := ⟨le_refl _, le_refl _⟩

theorem self_brackets (n : Nat) : Brackets ⟨n, n, 0⟩ n := by constructor <;> simp

theorem powBracket_brackets (n : Nat) {fuel b : Nat} {x : Bracket} (h : powBracket n fuel b = some x) :
    Brackets x (n ^ b) := by
  induction fuel generalizing b x with
  | zero =>
    by_cases hb : b = 0
    · subst hb
      simp only [powBracket, ↓reduceIte, Option.some.injEq] at h
      subst h
      simpa using one_brackets
    · simp [powBracket, hb] at h
  | succ fuel ih =>
    by_cases hb : b = 0
    · subst hb
      simp only [powBracket, ↓reduceIte, Option.some.injEq] at h
      subst h
      simpa using one_brackets
    · simp only [powBracket, if_neg hb] at h
      cases hy : powBracket n fuel (b / 2) with
      | none => simp [hy] at h
      | some y =>
        have sq := mulBracket_brackets (ih hy) (ih hy)
        rw [hy] at h
        by_cases hodd : b % 2 = 1
        · simp only [if_pos hodd, Option.some.injEq] at h
          subst h
          have : n ^ b = n ^ (b / 2) * n ^ (b / 2) * n := by
            rw [← pow_add, ← pow_succ]
            congr 1
            omega
          exact this ▸ mulBracket_brackets sq (self_brackets n)
        · simp only [if_neg hodd, Option.some.injEq] at h
          subst h
          have : n ^ b = n ^ (b / 2) * n ^ (b / 2) := by
            rw [← pow_add]
            congr 1
            omega
          exact this ▸ sq

theorem cmpBracket_eq {x : Bracket} {v a : Nat} {o : Ordering} (hx : Brackets x v)
    (h : cmpBracket x a = some o) : compare v (10 ^ a) = o := by
  obtain ⟨hlo, hhi⟩ := hx
  unfold cmpBracket at h
  split at h
  · split at h
    · cases h
      rw [compare_gt_iff_gt]
      calc (10 : Nat) ^ a < 10 ^ x.e := Nat.pow_lt_pow_right (by norm_num) ‹_›
        _ ≤ x.lo * 10 ^ x.e := Nat.le_mul_of_pos_left _ (by omega)
        _ ≤ v := hlo
    · cases h
  · have split10 : (10 : Nat) ^ a = 10 ^ (a - x.e) * 10 ^ x.e := by
      rw [← pow_add]
      congr 1
      omega
    have pos : 0 < (10 : Nat) ^ x.e := Nat.pow_pos (by norm_num)
    split at h
    · split at h
      · cases h
        rw [compare_lt_iff_lt, split10]
        refine lt_of_le_of_lt hhi (Nat.mul_lt_mul_of_pos_right (lt_of_lt_of_le ‹x.hi < 10 ^ 120› ?_) pos)
        exact Nat.pow_le_pow_right (by norm_num) ‹_›
      · cases h
    · split at h
      · cases h
        rw [compare_lt_iff_lt, split10]
        exact lt_of_le_of_lt hhi (Nat.mul_lt_mul_of_pos_right ‹_› pos)
      · split at h
        · cases h
          rw [compare_gt_iff_gt, split10]
          exact lt_of_lt_of_le (Nat.mul_lt_mul_of_pos_right ‹_› pos) hlo
        · split at h
          · rename_i both
            cases h
            rw [compare_eq_iff_eq, split10]
            rw [both.1] at hlo
            rw [both.2] at hhi
            exact le_antisymm hhi hlo
          · cases h

/-- The comparison is exact. -/
theorem powCmp_eq (n b a : Nat) : powCmp n b a = compare (n ^ b) (10 ^ a) := by
  unfold powCmp
  cases hx : powBracket n 64 b with
  | none => rfl
  | some x =>
    cases ho : cmpBracket x a with
    | none => simp [ho]
    | some o => simpa [ho] using (cmpBracket_eq (powBracket_brackets n hx) ho).symm

/-- Comparing `n^den` with `10^num` compares `n` with the real `10^(num/den)`. -/
theorem compare_pow_real (n num den : Nat) (hden : 0 < den) :
    compare (n ^ den) (10 ^ num) = compare (n : ℝ) ((10 : ℝ) ^ ((num : ℝ) / den)) := by
  have key : ((10 : ℝ) ^ ((num : ℝ) / den)) ^ den = 10 ^ num := by
    rw [← Real.rpow_natCast, ← Real.rpow_mul (by norm_num),
      div_mul_cancel₀ _ (by exact_mod_cast hden.ne'), Real.rpow_natCast]
  have nonneg : (0 : ℝ) ≤ (10 : ℝ) ^ ((num : ℝ) / den) := Real.rpow_nonneg (by norm_num) _
  have nn : (0 : ℝ) ≤ n := Nat.cast_nonneg n
  rcases lt_trichotomy (n : ℝ) ((10 : ℝ) ^ ((num : ℝ) / den)) with h | h | h
  · rw [compare_lt_iff_lt.mpr h, compare_lt_iff_lt]
    have := pow_lt_pow_left₀ h nn hden.ne'
    rw [key] at this
    exact_mod_cast this
  · rw [compare_eq_iff_eq.mpr h, compare_eq_iff_eq]
    have : (n : ℝ) ^ den = 10 ^ num := by rw [h, key]
    exact_mod_cast this
  · rw [compare_gt_iff_gt.mpr h, compare_gt_iff_gt]
    have := pow_lt_pow_left₀ h nonneg hden.ne'
    rw [key] at this
    exact_mod_cast this

/-- `cmpPow10` compares a natural number with a real power of ten. -/
theorem cmpPow10_real (n : Nat) (num : Int) (den : Nat) (hden : 0 < den) :
    cmpPow10 n num den = compare (n : ℝ) ((10 : ℝ) ^ ((num : ℝ) / den)) := by
  unfold cmpPow10
  split
  · rename_i neg
    have pos : (0 : ℝ) < (10 : ℝ) ^ ((num : ℝ) / den) := Real.rpow_pos_of_pos (by norm_num) _
    split
    · rename_i zero
      subst zero
      simpa using (compare_lt_iff_lt.mpr pos).symm
    · rename_i nonzero
      refine (compare_gt_iff_gt.mpr ?_).symm
      have : (10 : ℝ) ^ ((num : ℝ) / den) < 1 :=
        Real.rpow_lt_one_of_one_lt_of_neg (by norm_num)
          (div_neg_of_neg_of_pos (by exact_mod_cast neg) (by exact_mod_cast hden))
      have one : (1 : ℝ) ≤ n := by exact_mod_cast Nat.one_le_iff_ne_zero.mpr nonzero
      linarith
  · rename_i nonneg
    obtain ⟨k, rfl⟩ := Int.eq_ofNat_of_zero_le (not_lt.mp nonneg)
    rw [powCmp_eq]
    exact compare_pow_real n k den hden

/-- The search finds the last number `p` holds at, for a `p` that holds at the base and stays false once false. -/
theorem searchLast_spec (p : Nat → Bool) (mono : ∀ m n, m ≤ n → p n = true → p m = true)
    {bits base : Nat} (hbase : p base = true) :
    p (searchLast p bits base) = true ∧
      base ≤ searchLast p bits base ∧ searchLast p bits base < base + 2 ^ bits ∧
      (∀ n, searchLast p bits base < n → n < base + 2 ^ bits → p n = false) := by
  induction bits generalizing base with
  | zero => exact ⟨hbase, le_refl _, by simp [searchLast], fun n h h' => by simp [searchLast] at h h'; omega⟩
  | succ bits ih =>
    have two : 2 ^ (bits + 1) = 2 ^ bits + 2 ^ bits := by ring
    rw [searchLast]
    split
    · rename_i hp
      obtain ⟨h1, h2, h3, h4⟩ := ih hp
      exact ⟨h1, by omega, by omega, fun n h h' => h4 n h (by omega)⟩
    · rename_i hp
      obtain ⟨h1, h2, h3, h4⟩ := ih hbase
      refine ⟨h1, h2, by omega, fun n h h' => ?_⟩
      by_cases hn : n < base + 2 ^ bits
      · exact h4 n h hn
      · by_contra hpn
        exact hp (mono _ n (by omega) (by simpa using hpn))

end Sys2Proof.Machine
end

