-- ==== Sys2Proof/Laws/Fixed.lean ====
section
/-! SUPPORT. The integers Machine/Fixed.lean finds are the floor and the ceiling of the real values of R217 and R218
(`svpExact_spec`, `dewExact_spec`), and what rounding does with them (`roundExact_faithful`). -/

namespace Sys2Proof.Machine

open Sys2Proof.Safety

/-- Under `faithful`, the two draws give exactly the neighbours in range (R212). -/
theorem roundExact_faithful (inRange : Int → Bool) (x : Exact) (r : Int) :
    (∃ up, roundExact .faithful up inRange x = some r) ↔
      (r = x.floor ∨ r = x.ceil) ∧ inRange r = true := by
  by_cases hf : inRange x.floor = true
  · by_cases hc : inRange x.ceil = true
    · constructor
      · rintro ⟨up, h⟩
        cases up <;> simp [roundExact, hf, hc] at h <;> subst h <;> simp [hf, hc]
      · rintro ⟨rfl | rfl, -⟩
        · exact ⟨false, by simp [roundExact, hf]⟩
        · exact ⟨true, by simp [roundExact, hf, hc]⟩
    · constructor
      · rintro ⟨up, h⟩
        simp [roundExact, hf, hc] at h
        subst h
        simp [hf]
      · rintro ⟨rfl | rfl, hr⟩
        · exact ⟨false, by simp [roundExact, hf]⟩
        · exact absurd hr hc
  · by_cases hc : inRange x.ceil = true
    · constructor
      · rintro ⟨up, h⟩
        simp [roundExact, hf, hc] at h
        subst h
        simp [hc]
      · rintro ⟨rfl | rfl, hr⟩
        · exact absurd hr hf
        · exact ⟨false, by simp [roundExact, hf, hc]⟩
    · constructor
      · rintro ⟨up, h⟩
        simp [roundExact, hf, hc] at h
      · rintro ⟨rfl | rfl, hr⟩
        · exact absurd hr hf
        · exact absurd hr hc

/-! ### SVP -/

theorem svpDen_pos {d : Int} (h : d ≠ 0) : 0 < svpDen d := by
  have : 0 < d.natAbs := Int.natAbs_pos.mpr h
  unfold svpDen
  omega

/-- R217's `x` as one power of ten. -/
theorem svpReal_eq {t : Int} (h : t ≠ -235660) :
    svpReal t = (10 : ℝ) ^ ((svpNum (t + 235660) : ℝ) / svpDen (t + 235660)) := by
  have e6 : (10 : ℝ) ^ (6 : ℕ) = (10 : ℝ) ^ (6 : ℝ) := by norm_num
  have e1 : (t : ℝ) / 1000 + 235.66 = (t + 235660) / 1000 := by ring
  unfold svpReal
  rw [e6, ← Real.rpow_add (by norm_num), e1]
  congr 1
  rcases lt_or_gt_of_ne (show t + 235660 ≠ 0 by omega) with hneg | hpos
  · have hr : (t : ℝ) + 235660 < 0 := by exact_mod_cast hneg
    have hr' := hr.ne
    simp only [svpNum, svpDen, Int.sign_eq_neg_one_of_neg hneg]
    simp only [Nat.cast_natAbs]
    push_cast
    simp only [Nat.cast_natAbs, Int.cast_abs, Int.cast_add, Int.cast_ofNat, abs_of_neg hr]
    field_simp
    ring
  · have hr : 0 < (t : ℝ) + 235660 := by exact_mod_cast hpos
    have hr' := hr.ne'
    simp only [svpNum, svpDen, Int.sign_eq_one_of_pos hpos]
    simp only [Nat.cast_natAbs]
    push_cast
    simp only [Nat.cast_natAbs, Int.cast_abs, Int.cast_add, Int.cast_ofNat, abs_of_pos hr]
    field_simp
    ring

theorem svpReal_pos {t : Int} (h : t ≠ -235660) : 0 < svpReal t := by
  rw [svpReal_eq h]
  exact Real.rpow_pos_of_pos (by norm_num) _

/-- The comparison the search uses is against `x` itself. -/
theorem svp_reaches {t : Int} (h : t ≠ -235660) (n : Nat) :
    cmpPow10 n (svpNum (t + 235660)) (svpDen (t + 235660)) = compare (n : ℝ) (svpReal t) := by
  rw [svpReal_eq h]
  exact cmpPow10_real n _ _ (svpDen_pos (by omega))

theorem compare_ne_gt {α : Type} [LinearOrder α] (a b : α) : (compare a b != .gt) = true ↔ a ≤ b := by
  rw [bne_iff_ne, ne_eq, compare_gt_iff_gt, not_lt]

/-- `svpExact` finds the floor of `x` (up to `2^33 - 1`, which is past the range) and its ceiling. -/
theorem svpExact_spec {t : Int} (h : t ≠ -235660) :
    ∃ e, svpExact t = some e ∧ e.floor = min ⌊svpReal t⌋ (2 ^ 33 - 1) ∧
      (svpReal t < 2 ^ 33 → e.ceil = ⌈svpReal t⌉) ∧ e.floor ≤ e.ceil := by
  set x := svpReal t with hx
  have xpos := svpReal_pos h
  let p : Nat → Bool := fun n => cmpPow10 n (svpNum (t + 235660)) (svpDen (t + 235660)) != .gt
  have hp : ∀ n, p n = true ↔ (n : ℝ) ≤ x := fun n => by
    show (cmpPow10 n _ _ != .gt) = true ↔ _
    rw [svp_reaches h]
    exact compare_ne_gt _ _
  obtain ⟨h1, -, h3, h4⟩ := searchLast_spec p
    (fun m n hmn hn => (hp m).mpr (le_trans (by exact_mod_cast hmn) ((hp n).mp hn)))
    (bits := 33) (base := 0) ((hp 0).mpr (by simpa using xpos.le))
  set r := searchLast p 33 0 with hr
  have hrx : (r : ℝ) ≤ x := (hp r).mp h1
  have hlt : r + 1 < 2 ^ 33 → x < r + 1 := fun hb => by
    have := h4 (r + 1) (by omega) (by omega)
    by_contra hge
    exact Bool.noConfusion (this.symm.trans ((hp _).mpr (by push_cast; linarith)))
  refine ⟨{ floor := r
            ceil := if cmpPow10 r (svpNum (t + 235660)) (svpDen (t + 235660)) = .eq then r else r + 1
            nearest := if cmpPow10 (5 * (2 * r + 1)) (svpNum (t + 235660) + svpDen (t + 235660))
              (svpDen (t + 235660)) = .gt then r else r + 1 }, ?_, ?_, ?_, ?_⟩
  · simp [svpExact, h, hr, p]
  · show (r : Int) = _
    by_cases hb : r + 1 < 2 ^ 33
    · have : ⌊x⌋ = (r : Int) := Int.floor_eq_iff.mpr ⟨by exact_mod_cast hrx, by exact_mod_cast hlt hb⟩
      rw [this]
      omega
    · have : (r : Int) ≤ ⌊x⌋ := Int.le_floor.mpr (by exact_mod_cast hrx)
      omega
  · intro hsmall
    have hx1 : x < r + 1 := by
      by_cases hb : r + 1 < 2 ^ 33
      · exact hlt hb
      · have : r + 1 = 2 ^ 33 := by omega
        have : (r : ℝ) + 1 = 2 ^ 33 := by exact_mod_cast this
        linarith
    show (if cmpPow10 r _ _ = .eq then (r : Int) else r + 1) = _
    rw [svp_reaches h, ← hx]
    split
    · rename_i heq
      rw [compare_eq_iff_eq] at heq
      rw [← heq]
      simp
    · rename_i hne
      rw [compare_eq_iff_eq] at hne
      refine (Int.ceil_eq_iff.mpr ⟨?_, ?_⟩).symm
      · push_cast
        linarith [lt_of_le_of_ne hrx hne]
      · push_cast
        linarith
  · dsimp only
    split
    · exact le_refl _
    · exact Int.le_add_one (le_refl _)

/-! ### DEW -/

theorem pow_lt_pow_ten {n k b a : Nat} (h : n < 10 ^ k) (hb : b ≠ 0) (hka : k * b ≤ a) : n ^ b < 10 ^ a :=
  calc n ^ b < (10 ^ k) ^ b := Nat.pow_lt_pow_left h hb
    _ = 10 ^ (k * b) := (pow_mul 10 k b).symm
    _ ≤ 10 ^ a := Nat.pow_le_pow_right (by norm_num) hka

/-- R218's `x` from the logarithm of the product. -/
theorem dewReal_eq {h p : Int} (hp : 0 < h * p) (hlt : h * p < 10 ^ 19) :
    dewReal h p = 1762390 / (19.1332 - Real.logb 10 ((h * p : ℤ) : ℝ)) - 235660 := by
  have pos : (0 : ℝ) < ((h * p : ℤ) : ℝ) := by exact_mod_cast hp
  have hL : Real.logb 10 ((h * p : ℤ) : ℝ) < 19 := by
    rw [Real.logb_lt_iff_lt_rpow (by norm_num) pos]
    have : (10 : ℝ) ^ (19 : ℝ) = 10 ^ (19 : ℕ) := by norm_num
    rw [this]
    exact_mod_cast hlt
  have e11 : Real.logb 10 ((10 : ℝ) ^ (11 : ℕ)) = 11 := by
    rw [Real.logb_pow, Real.logb_self_eq_one (by norm_num)]
    norm_num
  have hlog : Real.logb 10 ((h : ℝ) * (p : ℝ) / 10 ^ 11) = Real.logb 10 ((h * p : ℤ) : ℝ) - 11 := by
    rw [Real.logb_div (by exact_mod_cast hp.ne') (by norm_num), e11]
    push_cast
    rfl
  unfold dewReal
  rw [hlog]
  have d1 : Real.logb 10 ((h * p : ℤ) : ℝ) - 11 - 8.1332 ≠ 0 := by
    intro h0
    norm_num at h0 hL
    linarith
  have d2 : (19.1332 : ℝ) - Real.logb 10 ((h * p : ℤ) : ℝ) ≠ 0 := by
    intro h0
    norm_num at h0 hL
    linarith
  have : (19.1332 : ℝ) - Real.logb 10 ((h * p : ℤ) : ℝ) = -(Real.logb 10 ((h * p : ℤ) : ℝ) - 11 - 8.1332) := by ring
  rw [this]
  rw [div_neg]
  ring

/-- The comparison the search uses is `m / 2` against the exact dew point above -235.66 °C. -/
theorem dewCmp_spec {hp m : Nat} (pos : 0 < hp) (hlt : hp < 10 ^ 19) :
    dewCmp hp m = compare (1762390 / (19.1332 - Real.logb 10 (hp : ℝ))) ((m : ℝ) / 2) := by
  have posR : (0 : ℝ) < hp := by exact_mod_cast pos
  have hL : Real.logb 10 (hp : ℝ) < 19 := by
    rw [Real.logb_lt_iff_lt_rpow (by norm_num) posR]
    have : (10 : ℝ) ^ (19 : ℝ) = 10 ^ (19 : ℕ) := by norm_num
    rw [this]
    exact_mod_cast hlt
  set L := Real.logb 10 (hp : ℝ) with hLdef
  have hden : (0 : ℝ) < 19.1332 - L := by norm_num; linarith
  have hpL : (hp : ℝ) = (10 : ℝ) ^ L := (Real.rpow_logb (by norm_num) (by norm_num) posR).symm
  have hDpos : 0 < 1762390 / (19.1332 - L) := div_pos (by norm_num) hden
  unfold dewCmp
  split
  · rename_i h0
    subst h0
    exact (compare_gt_iff_gt.mpr (by simpa using hDpos)).symm
  · rename_i hm
    have mpos : (0 : ℝ) < m := by exact_mod_cast Nat.pos_of_ne_zero hm
    rw [cmpPow10_real hp _ _ (by unfold dewDen; omega)]
    have hexp : ((dewNum m : ℤ) : ℝ) / (dewDen m : ℕ) = 19.1332 - 3524780 / m := by
      simp only [dewNum, dewDen]
      push_cast
      field_simp
      ring
    rw [hexp, hpL]
    have hmono : StrictMono fun y : ℝ => (10 : ℝ) ^ y := fun a b hab =>
      Real.rpow_lt_rpow_of_exponent_lt (by norm_num) hab
    have key : ∀ c : ℝ, (L < 19.1332 - 3524780 / m ↔ 1762390 / (19.1332 - L) < m / 2) ∧
        (L = 19.1332 - 3524780 / m ↔ 1762390 / (19.1332 - L) = m / 2) := fun _ => by
      constructor
      · rw [div_lt_div_iff₀ hden (by norm_num), lt_sub_comm, div_lt_iff₀ mpos]
        constructor <;> intro h <;> nlinarith
      · rw [div_eq_div_iff hden.ne' (by norm_num), eq_sub_iff_add_eq, ← eq_sub_iff_add_eq', div_eq_iff mpos.ne']
        constructor <;> intro h <;> nlinarith
    obtain ⟨klt, keq⟩ := key 0
    rcases lt_trichotomy L (19.1332 - 3524780 / m) with h | h | h
    · rw [compare_lt_iff_lt.mpr (hmono h), compare_lt_iff_lt.mpr (klt.mp h)]
    · rw [compare_eq_iff_eq.mpr (congrArg _ h), compare_eq_iff_eq.mpr (keq.mp h)]
    · rw [compare_gt_iff_gt.mpr (hmono h), compare_gt_iff_gt.mpr]
      rcases lt_trichotomy (1762390 / (19.1332 - L)) ((m : ℝ) / 2) with h' | h' | h'
      · exact absurd (klt.mpr h') (not_lt.mpr h.le)
      · exact absurd (keq.mpr h') h.ne'
      · exact h'

/-- `dewExact` finds the floor and the ceiling of `x`, for every s32 humidity and u32 pressure of positive product. -/
theorem dewExact_spec {h p : Int} (hpos : 0 < h * p) (hlt : h * p < 10 ^ 19) :
    ∃ e, dewExact h p = some e ∧ e.floor = ⌊dewReal h p⌋ ∧ e.ceil = ⌈dewReal h p⌉ := by
  obtain ⟨n, hn⟩ := Int.eq_ofNat_of_zero_le hpos.le
  have npos : 0 < n := by omega
  have nlt : n < 10 ^ 19 := by
    have : (n : Int) < 10 ^ 19 := hn ▸ hlt
    exact_mod_cast this
  have hcast : ((h * p : ℤ) : ℝ) = (n : ℝ) := by rw [hn]; rfl
  have hreal := dewReal_eq hpos hlt
  rw [hcast] at hreal
  have hL : Real.logb 10 (n : ℝ) < 19 := by
    rw [Real.logb_lt_iff_lt_rpow (by norm_num) (by exact_mod_cast npos)]
    have : (10 : ℝ) ^ (19 : ℝ) = 10 ^ (19 : ℕ) := by norm_num
    rw [this]
    exact_mod_cast nlt
  set D : ℝ := 1762390 / (19.1332 - Real.logb 10 (n : ℝ)) with hD
  have hden : (0 : ℝ) < 19.1332 - Real.logb 10 (n : ℝ) := by norm_num; linarith
  have Dpos : 0 < D := div_pos (by norm_num) hden
  have Dlt : D < 2 ^ 24 := by
    rw [hD, div_lt_iff₀ hden]
    norm_num
    linarith
  let q : Nat → Bool := fun k => dewCmp n (2 * k) != .lt
  have hq : ∀ k, q k = true ↔ (k : ℝ) ≤ D := fun k => by
    show (dewCmp n (2 * k) != .lt) = true ↔ _
    rw [dewCmp_spec npos nlt, ← hD, bne_iff_ne, ne_eq, compare_lt_iff_lt, not_lt]
    push_cast
    rw [mul_div_cancel_left₀ _ (by norm_num : (2 : ℝ) ≠ 0)]
  obtain ⟨h1, -, h3, h4⟩ := searchLast_spec q
    (fun a b hab hb => (hq a).mpr (le_trans (by exact_mod_cast hab) ((hq b).mp hb)))
    (bits := 24) (base := 0) ((hq 0).mpr (by simpa using Dpos.le))
  set d := searchLast q 24 0 with hd
  have hdD : (d : ℝ) ≤ D := (hq d).mp h1
  have hDd : D < d + 1 := by
    by_cases hb : d + 1 < 2 ^ 24
    · have := h4 (d + 1) (by omega) (by omega)
      by_contra hge
      exact Bool.noConfusion (this.symm.trans ((hq _).mpr (by push_cast; linarith)))
    · have : d + 1 = 2 ^ 24 := by omega
      have : (d : ℝ) + 1 = 2 ^ 24 := by exact_mod_cast this
      linarith
  have below : powCmp n 10000 191332 = .lt := by
    rw [powCmp_eq, compare_lt_iff_lt]
    exact pow_lt_pow_ten nlt (by norm_num) (by norm_num)
  refine ⟨{ floor := (d : Int) - 235660
            ceil := if dewCmp n (2 * d) = .eq then (d : Int) - 235660 else (d : Int) - 235659
            nearest := if dewCmp n (2 * d + 1) = .lt then (d : Int) - 235660 else (d : Int) - 235659 }, ?_, ?_, ?_⟩
  · unfold dewExact
    rw [if_neg (not_le.mpr hpos)]
    have toNat : (h * p).toNat = n := by rw [hn]; rfl
    dsimp only
    rw [toNat, if_neg (fun hne => hne below)]
  · dsimp only
    rw [hreal]
    refine (Int.floor_eq_iff.mpr ⟨?_, ?_⟩).symm
    · push_cast
      linarith
    · push_cast
      linarith
  · dsimp only
    rw [hreal, dewCmp_spec npos nlt, ← hD]
    have half : ((2 * d : ℕ) : ℝ) / 2 = d := by push_cast; ring
    rw [half]
    split
    · rename_i heq
      rw [compare_eq_iff_eq] at heq
      refine (Int.ceil_eq_iff.mpr ⟨?_, ?_⟩).symm <;> push_cast <;> linarith
    · rename_i hne
      rw [compare_eq_iff_eq] at hne
      have := lt_of_le_of_ne hdD (Ne.symm hne)
      refine (Int.ceil_eq_iff.mpr ⟨?_, ?_⟩).symm <;> push_cast <;> linarith

end Sys2Proof.Machine
end

