-- ==== Sys2Proof/Laws/PerInstr.lean ====
section
/-! SUPPORT. The statements made per instruction: one lemma per constructor of `Instr`. -/

namespace Sys2Proof.Laws.EncodedForm

/-- The match and mask of an instruction's row in spec/opcode_table.json: `(width, match, mask)`. -/
def row : Instr → Nat × Nat × Nat
  | .readConfig _ => (32, 0x00000100, 0xFFFFFF00)
  | .writeConfig _ => (32, 0x00000200, 0xFFFFFF00)
  | .setResolution _ => (32, 0x00000300, 0xFFFFFF00)
  | .setHeater _ => (32, 0x00000400, 0xFFFFFF00)
  | .setOtpReload _ => (32, 0x00000500, 0xFFFFFF00)
  | .isBatteryLow _ => (32, 0x00000600, 0xFFFFFF00)
  | .softReset _ => (32, 0x00000700, 0xFFFFFF00)
  | .measureRawT _ => (32, 0x00001000, 0xFFFFFF00)
  | .measureRawRh _ => (32, 0x00001100, 0xFFFFFF00)
  | .getTemperatureC _ => (32, 0x00001200, 0xFFFFFF00)
  | .getTemperatureF _ => (32, 0x00001300, 0xFFFFFF00)
  | .getHumidity _ => (32, 0x00001400, 0xFFFFFF00)
  | .getDewpointC _ => (32, 0x00001500, 0xFFFFFF00)
  | .getDewpointF _ => (32, 0x00001600, 0xFFFFFF00)
  | .crcCheck _ => (32, 0x00001700, 0xFFFFFF00)
  | .convTempC _ => (32, 0x00002000, 0xFFFFFF00)
  | .convTempF _ => (32, 0x00002100, 0xFFFFFF00)
  | .convHumRaw _ => (32, 0x00002200, 0xFFFFFF00)
  | .convHumComp _ => (32, 0x00002300, 0xFFFFFF00)
  | .convSvp _ => (32, 0x00002400, 0xFFFFFF00)
  | .convDewC _ => (32, 0x00002500, 0xFFFFFF00)
  | .convDewF _ => (32, 0x00002600, 0xFFFFFF00)
  | .wireTrigTHold => (8, 0xE3, 0xFF)
  | .wireTrigTNohold => (8, 0xF3, 0xFF)
  | .wireTrigRhHold => (8, 0xE5, 0xFF)
  | .wireTrigRhNohold => (8, 0xF5, 0xFF)
  | .wireWriteUserReg _ => (8, 0xE6, 0xFF)
  | .wireReadUserReg => (8, 0xE7, 0xFF)
  | .wireSoftReset => (8, 0xFE, 0xFF)

/-- An encoded instruction meets its row of the opcode table: a command word matches under the mask (R106, "A decoder
matches a command word against `(w & 0xFFFFFF00) == (opcode << 8)`"), a wire command's first byte is the row's (R120). -/
def Statement (i : Instr) : Prop :=
  match encode i with
  | .cmd w => (row i).1 = 32 ∧ w &&& BitVec.ofNat 32 (row i).2.2 = BitVec.ofNat 32 (row i).2.1
  | .wire bytes => (row i).1 = 8 ∧ bytes.head? = some (BitVec.ofNat 8 (row i).2.1)

/-- The opcode field and the reserved bits of a command word do not depend on the argument. -/
theorem cmdWord_masked (opcode arg : Byte) :
    cmdWord opcode arg &&& BitVec.ofNat 32 0xFFFFFF00 = (opcode ++ (0 : Byte)).setWidth 32 := by
  apply BitVec.eq_of_getLsbD_eq
  intro i hi
  simp only [cmdWord, BitVec.getLsbD_and, BitVec.getLsbD_setWidth, BitVec.getLsbD_append]
  interval_cases i <;> simp

theorem readConfig (arg : Byte) : Statement (.readConfig arg) :=
  ⟨rfl, (cmdWord_masked 0x01 arg).trans (show _ = BitVec.ofNat 32 0x00000100 by decide)⟩

theorem writeConfig (arg : Byte) : Statement (.writeConfig arg) :=
  ⟨rfl, (cmdWord_masked 0x02 arg).trans (show _ = BitVec.ofNat 32 0x00000200 by decide)⟩

theorem setResolution (arg : Byte) : Statement (.setResolution arg) :=
  ⟨rfl, (cmdWord_masked 0x03 arg).trans (show _ = BitVec.ofNat 32 0x00000300 by decide)⟩

theorem setHeater (arg : Byte) : Statement (.setHeater arg) :=
  ⟨rfl, (cmdWord_masked 0x04 arg).trans (show _ = BitVec.ofNat 32 0x00000400 by decide)⟩

theorem setOtpReload (arg : Byte) : Statement (.setOtpReload arg) :=
  ⟨rfl, (cmdWord_masked 0x05 arg).trans (show _ = BitVec.ofNat 32 0x00000500 by decide)⟩

theorem isBatteryLow (arg : Byte) : Statement (.isBatteryLow arg) :=
  ⟨rfl, (cmdWord_masked 0x06 arg).trans (show _ = BitVec.ofNat 32 0x00000600 by decide)⟩

theorem softReset (arg : Byte) : Statement (.softReset arg) :=
  ⟨rfl, (cmdWord_masked 0x07 arg).trans (show _ = BitVec.ofNat 32 0x00000700 by decide)⟩

theorem measureRawT (arg : Byte) : Statement (.measureRawT arg) :=
  ⟨rfl, (cmdWord_masked 0x10 arg).trans (show _ = BitVec.ofNat 32 0x00001000 by decide)⟩

theorem measureRawRh (arg : Byte) : Statement (.measureRawRh arg) :=
  ⟨rfl, (cmdWord_masked 0x11 arg).trans (show _ = BitVec.ofNat 32 0x00001100 by decide)⟩

theorem getTemperatureC (arg : Byte) : Statement (.getTemperatureC arg) :=
  ⟨rfl, (cmdWord_masked 0x12 arg).trans (show _ = BitVec.ofNat 32 0x00001200 by decide)⟩

theorem getTemperatureF (arg : Byte) : Statement (.getTemperatureF arg) :=
  ⟨rfl, (cmdWord_masked 0x13 arg).trans (show _ = BitVec.ofNat 32 0x00001300 by decide)⟩

theorem getHumidity (arg : Byte) : Statement (.getHumidity arg) :=
  ⟨rfl, (cmdWord_masked 0x14 arg).trans (show _ = BitVec.ofNat 32 0x00001400 by decide)⟩

theorem getDewpointC (arg : Byte) : Statement (.getDewpointC arg) :=
  ⟨rfl, (cmdWord_masked 0x15 arg).trans (show _ = BitVec.ofNat 32 0x00001500 by decide)⟩

theorem getDewpointF (arg : Byte) : Statement (.getDewpointF arg) :=
  ⟨rfl, (cmdWord_masked 0x16 arg).trans (show _ = BitVec.ofNat 32 0x00001600 by decide)⟩

theorem crcCheck (arg : Byte) : Statement (.crcCheck arg) :=
  ⟨rfl, (cmdWord_masked 0x17 arg).trans (show _ = BitVec.ofNat 32 0x00001700 by decide)⟩

theorem convTempC (arg : Byte) : Statement (.convTempC arg) :=
  ⟨rfl, (cmdWord_masked 0x20 arg).trans (show _ = BitVec.ofNat 32 0x00002000 by decide)⟩

theorem convTempF (arg : Byte) : Statement (.convTempF arg) :=
  ⟨rfl, (cmdWord_masked 0x21 arg).trans (show _ = BitVec.ofNat 32 0x00002100 by decide)⟩

theorem convHumRaw (arg : Byte) : Statement (.convHumRaw arg) :=
  ⟨rfl, (cmdWord_masked 0x22 arg).trans (show _ = BitVec.ofNat 32 0x00002200 by decide)⟩

theorem convHumComp (arg : Byte) : Statement (.convHumComp arg) :=
  ⟨rfl, (cmdWord_masked 0x23 arg).trans (show _ = BitVec.ofNat 32 0x00002300 by decide)⟩

theorem convSvp (arg : Byte) : Statement (.convSvp arg) :=
  ⟨rfl, (cmdWord_masked 0x24 arg).trans (show _ = BitVec.ofNat 32 0x00002400 by decide)⟩

theorem convDewC (arg : Byte) : Statement (.convDewC arg) :=
  ⟨rfl, (cmdWord_masked 0x25 arg).trans (show _ = BitVec.ofNat 32 0x00002500 by decide)⟩

theorem convDewF (arg : Byte) : Statement (.convDewF arg) :=
  ⟨rfl, (cmdWord_masked 0x26 arg).trans (show _ = BitVec.ofNat 32 0x00002600 by decide)⟩

theorem wireTrigTHold : Statement (.wireTrigTHold) :=
  ⟨rfl, rfl⟩

theorem wireTrigTNohold : Statement (.wireTrigTNohold) :=
  ⟨rfl, rfl⟩

theorem wireTrigRhHold : Statement (.wireTrigRhHold) :=
  ⟨rfl, rfl⟩

theorem wireTrigRhNohold : Statement (.wireTrigRhNohold) :=
  ⟨rfl, rfl⟩

theorem wireWriteUserReg (data : Byte) : Statement (.wireWriteUserReg data) :=
  ⟨rfl, rfl⟩

theorem wireReadUserReg : Statement (.wireReadUserReg) :=
  ⟨rfl, rfl⟩

theorem wireSoftReset : Statement (.wireSoftReset) :=
  ⟨rfl, rfl⟩

end Sys2Proof.Laws.EncodedForm
end

