-- ==== Sys2Proof/Tests/Slice0.lean ====
section
/-! SUPPORT. Tests of single steps against values of spec/ (each test names its source), and a witness for the hypotheses
of each statement. -/

namespace Sys2Proof.Tests

open Sys2Proof.Machine Sys2Proof.Safety

/-! ### Helpers -/

/-- A running command: its word, CTRL's latch, its operands' latches and the answers it has had. The address is the
example value of I9. -/
def running (w : Word) (got : List Answer) (ctrl : Word := 0) (a : Word := 0) (b : Word := 0) (c : Word := 0) : State :=
  { State.reset with
    devaddr := 0x40, lCmd := w, lCtrl := ctrl, lOpa := a, lOpb := b, lOpc := c, busy := true, seq := .run got }

/-- An idle HTSC with these inputs to come. -/
def idleWith (inputs : List Input) : State := { State.reset with devaddr := 0x40, inputs := inputs }

/-- A state whose transaction `t` is unanswered, inside READ_CONFIG. -/
def waitingFor (t : Txn) (inputs : List Input) : State :=
  { running 0x00000100 [] with busHeld := true, port := .outstanding t, inputs := inputs }

/-- RES0, RES1 and STATUS after a step; `none` where it stops. -/
def ended : Host.Outcome State Fault Refusal → Option (Word × Word × Word)
  | .next t => some (t.res0, t.res1, statusWord t)
  | .fault _ => none
  | .refused _ => none

/-- What a step hands to the port. -/
def portOf : Host.Outcome State Fault Refusal → Option Port
  | .next t => some t.port
  | .fault _ => none
  | .refused _ => none

/-- The trace after a step. -/
def traceOf : Host.Outcome State Fault Refusal → Option (List BusEvent)
  | .next t => some t.trace
  | .fault _ => none
  | .refused _ => none

/-- Whether a step goes on. -/
def goesOn : Host.Outcome State Fault Refusal → Bool
  | .next _ => true
  | .fault _ => false
  | .refused _ => false

/-- Whether a step is refused as an undefined host access. -/
def refusedAccess : Host.Outcome State Fault Refusal → Option Access
  | .next _ => none
  | .fault _ => none
  | .refused (.undefinedHostAccess a) => some a
  | .refused (.notModelled _) => none

def frame683A : Frame := ⟨0x68, 0x3A, 0x7C⟩
def frame4E85 : Frame := ⟨0x4E, 0x85, 0x6B⟩
def frame4000 : Frame := ⟨0x40, 0x00, 0x89⟩
def frame8000 : Frame := ⟨0x80, 0x00, 0x23⟩
def frame0000 : Frame := ⟨0x00, 0x00, 0x00⟩
def frameFFFF : Frame := ⟨0xFF, 0xFF, 0x2D⟩

/-! ### WellFormed: each check refuses a term that breaks it -/

/-- R103, kind `none`. -/
theorem test_wellFormed_none :
    (Instr.readConfig 0x01).wellFormed = false ∧ (Instr.readConfig 0x00).wellFormed = true := by decide

/-- R103, kind `byte`: every byte is legal. -/
theorem test_wellFormed_byte : (Instr.writeConfig 0xFF).wellFormed = true := by decide

/-- R103, kind `rescode` (V2). -/
theorem test_wellFormed_rescode :
    (Instr.setResolution 0x02).wellFormed = false ∧ (Instr.setResolution 0x7E).wellFormed = false ∧
    (Instr.setResolution 0x81).wellFormed = true := by decide

/-- R103, kind `bool` (V2). -/
theorem test_wellFormed_bool :
    (Instr.setHeater 0x02).wellFormed = false ∧ (Instr.setOtpReload 0xFF).wellFormed = false ∧
    (Instr.setHeater 0x01).wellFormed = true := by decide

/-- R103, kind `mode` (V1). -/
theorem test_wellFormed_mode :
    (Instr.measureRawT 0x20).wellFormed = false ∧ (Instr.measureRawRh 0x01).wellFormed = false ∧
    (Instr.measureRawRh 0x10).wellFormed = true := by decide

/-- R120: a wire command takes no argument byte of R103. -/
theorem test_wellFormed_wire :
    (Instr.wireWriteUserReg 0xFF).wellFormed = true ∧ Instr.wireSoftReset.wellFormed = true := by decide

/-- R62. -/
theorem test_access_misaligned : Access.wellFormed ⟨0x02, 32, 0xF⟩ = false := by decide

/-- R62. -/
theorem test_access_outside :
    Access.wellFormed ⟨0x40, 32, 0xF⟩ = false ∧ Access.wellFormed ⟨0x3C, 32, 0xF⟩ = true := by decide

/-- R62. -/
theorem test_access_narrow : Access.wellFormed ⟨0x00, 16, 0xF⟩ = false := by decide

/-- R62. -/
theorem test_access_partial : Access.wellFormed ⟨0x00, 32, 0x7⟩ = false := by decide

/-! ### Decoding: one word per constructor, written out from R100, R106 and R120 -/

theorem test_decode_readConfig : decodeCmd 0b0000000000000000_00000001_00000000 = .ok (.readConfig 0x00) := rfl
theorem test_decode_writeConfig : decodeCmd 0b0000000000000000_00000010_11111111 = .ok (.writeConfig 0xFF) := rfl
theorem test_decode_setResolution : decodeCmd 0b0000000000000000_00000011_10000001 = .ok (.setResolution 0x81) := rfl
theorem test_decode_setHeater : decodeCmd 0b0000000000000000_00000100_00000001 = .ok (.setHeater 0x01) := rfl
theorem test_decode_setOtpReload : decodeCmd 0b0000000000000000_00000101_00000001 = .ok (.setOtpReload 0x01) := rfl
theorem test_decode_isBatteryLow : decodeCmd 0b0000000000000000_00000110_00000000 = .ok (.isBatteryLow 0x00) := rfl
theorem test_decode_softReset : decodeCmd 0b0000000000000000_00000111_00000000 = .ok (.softReset 0x00) := rfl
theorem test_decode_measureRawT : decodeCmd 0b0000000000000000_00010000_00010000 = .ok (.measureRawT 0x10) := rfl
theorem test_decode_measureRawRh : decodeCmd 0b0000000000000000_00010001_00010000 = .ok (.measureRawRh 0x10) := rfl
theorem test_decode_getTemperatureC : decodeCmd 0b0000000000000000_00010010_00000000 = .ok (.getTemperatureC 0x00) := rfl
theorem test_decode_getTemperatureF : decodeCmd 0b0000000000000000_00010011_00000000 = .ok (.getTemperatureF 0x00) := rfl
theorem test_decode_getHumidity : decodeCmd 0b0000000000000000_00010100_00000000 = .ok (.getHumidity 0x00) := rfl
theorem test_decode_getDewpointC : decodeCmd 0b0000000000000000_00010101_00000000 = .ok (.getDewpointC 0x00) := rfl
theorem test_decode_getDewpointF : decodeCmd 0b0000000000000000_00010110_00000000 = .ok (.getDewpointF 0x00) := rfl
theorem test_decode_crcCheck : decodeCmd 0b0000000000000000_00010111_00010000 = .ok (.crcCheck 0x10) := rfl
theorem test_decode_convTempC : decodeCmd 0b0000000000000000_00100000_00000000 = .ok (.convTempC 0x00) := rfl
theorem test_decode_convTempF : decodeCmd 0b0000000000000000_00100001_00000000 = .ok (.convTempF 0x00) := rfl
theorem test_decode_convHumRaw : decodeCmd 0b0000000000000000_00100010_00000000 = .ok (.convHumRaw 0x00) := rfl
theorem test_decode_convHumComp : decodeCmd 0b0000000000000000_00100011_00000000 = .ok (.convHumComp 0x00) := rfl
theorem test_decode_convSvp : decodeCmd 0b0000000000000000_00100100_00000000 = .ok (.convSvp 0x00) := rfl
theorem test_decode_convDewC : decodeCmd 0b0000000000000000_00100101_00000000 = .ok (.convDewC 0x00) := rfl
theorem test_decode_convDewF : decodeCmd 0b0000000000000000_00100110_00000000 = .ok (.convDewF 0x00) := rfl

theorem test_decode_wireTrigTHold : decodeWire [0b11100011] = .ok (.wireTrigTHold, []) := rfl
theorem test_decode_wireTrigTNohold : decodeWire [0b11110011] = .ok (.wireTrigTNohold, []) := rfl
theorem test_decode_wireTrigRhHold : decodeWire [0b11100101] = .ok (.wireTrigRhHold, []) := rfl
theorem test_decode_wireTrigRhNohold : decodeWire [0b11110101] = .ok (.wireTrigRhNohold, []) := rfl
theorem test_decode_wireReadUserReg : decodeWire [0b11100111] = .ok (.wireReadUserReg, []) := rfl
theorem test_decode_wireSoftReset : decodeWire [0b11111110] = .ok (.wireSoftReset, []) := rfl
theorem test_decode_wireWriteUserReg : decodeWire [0b11100110, 0xCB] = .ok (.wireWriteUserReg 0xCB, []) := rfl

/-- V1: the words that are no command: opcodes 0x00, 0x08, 0x18, 0x27 and 0xFF, and nonzero reserved bits. -/
theorem test_decode_illegal :
    decodeCmd 0x00000000 = .error (.unassignedOpcode 0x00) ∧ decodeCmd 0x00000800 = .error (.unassignedOpcode 0x08) ∧
    decodeCmd 0x00001800 = .error (.unassignedOpcode 0x18) ∧ decodeCmd 0x00002700 = .error (.unassignedOpcode 0x27) ∧
    decodeCmd 0x0000FF00 = .error (.unassignedOpcode 0xFF) ∧ decodeCmd 0x00010100 = .error .reservedBits ∧
    decodeCmd 0x80000381 = .error .reservedBits := ⟨rfl, rfl, rfl, rfl, rfl, rfl, rfl⟩

/-- R72: other command bytes are none of HTSC's; 0xE6 needs its data byte. -/
theorem test_decodeWire_rejects :
    decodeWire [0xE4] = .error (.unknownWireByte 0xE4) ∧ decodeWire [0xE6] = .error .missingByte ∧
    decodeWire [] = .error .missingByte := ⟨rfl, rfl, rfl⟩

/-- The rows of spec/opcode_table.json: width, fixed bits. -/
def tableRows : List (Nat × Nat) :=
  [(32, 0x0100), (32, 0x0200), (32, 0x0300), (32, 0x0400), (32, 0x0500), (32, 0x0600), (32, 0x0700)] ++
  [(32, 0x1000), (32, 0x1100), (32, 0x1200), (32, 0x1300), (32, 0x1400), (32, 0x1500), (32, 0x1600), (32, 0x1700)] ++
  [(32, 0x2000), (32, 0x2100), (32, 0x2200), (32, 0x2300), (32, 0x2400), (32, 0x2500), (32, 0x2600)] ++
  [(8, 0xE3), (8, 0xF3), (8, 0xE5), (8, 0xF5), (8, 0xE6), (8, 0xE7), (8, 0xFE)]

theorem test_table_rows_decode : tableRows.all (fun r => (decodeTableWord r.1 r.2).isSome) = true := by decide

theorem test_table_rows_run_first :
    tableRows.all (fun r => goesOn (step (State.reset.withFetchWord r.1 r.2))) = true := by decide

/-! ### Register controller: values of R140 to R146 and V2 -/

theorem test_readConfig :
    ended (exec (.readConfig 0) (running 0x0100 [.ok, .okByte 0x4A])) = some (0x4A, 0, 0x02) := by decide

/-- V1, word 0x00000101. -/
theorem test_readConfig_argument :
    ended (exec (.readConfig 1) (running 0x0101 [])) = some (0, 0, 0x12) := by decide

theorem test_writeConfig :
    portOf (exec (.writeConfig 0x83) (running 0x0283 [])) = some (.requested (.write2 0xE6 0x83)) := by decide

theorem test_writeConfig_result :
    ended (exec (.writeConfig 0xFF) (running 0x02FF [.ok])) = some (0xFF, 0, 0x02) := by decide

theorem test_setResolution :
    portOf (exec (.setResolution 0x81) (running 0x0381 [.ok, .okByte 0x4A])) = some (.requested (.write2 0xE6 0xCB)) := by decide

theorem test_setResolution_result :
    ended (exec (.setResolution 0x00) (running 0x0300 [.ok, .okByte 0xFF, .ok])) = some (0x7E, 0xFF, 0x02) := by decide

theorem test_setHeater :
    ended (exec (.setHeater 1) (running 0x0401 [.ok, .okByte 0x4A, .ok])) = some (0x4E, 0x4A, 0x02) := by decide

theorem test_setHeater_read_err :
    ended (exec (.setHeater 1) (running 0x0401 [.ok, .err])) = some (0, 0, 0x22) := by decide

theorem test_setOtpReload_on :
    ended (exec (.setOtpReload 1) (running 0x0501 [.ok, .okByte 0xFF, .ok])) = some (0xFD, 0xFF, 0x02) := by decide

theorem test_setOtpReload_off :
    ended (exec (.setOtpReload 0) (running 0x0500 [.ok, .okByte 0x00, .ok])) = some (0x02, 0x00, 0x02) := by decide

theorem test_isBatteryLow :
    ended (exec (.isBatteryLow 0) (running 0x0600 [.ok, .okByte 0x40])) = some (1, 0x40, 0x02) := by decide

theorem test_isBatteryLow_not :
    ended (exec (.isBatteryLow 0) (running 0x0600 [.ok, .okByte 0xBF])) = some (0, 0xBF, 0x02) := by decide

theorem test_softReset :
    portOf (exec (.softReset 0) (running 0x0700 [.ok])) = some (.requested (.sleep 15)) := by decide

theorem test_softReset_err :
    ended (exec (.softReset 0) (running 0x0700 [.err])) = some (0, 0, 0x22) := by decide

/-! ### Measurement: values of R175 to R182, V3 and E2 -/

theorem test_measureRawT :
    ended (exec (.measureRawT 0x00) (running 0x1000 (frameAnswers frame683A) 0x01)) =
      some (0x6838, 0x00683A7C, 0x02) := by decide +kernel

theorem test_measureRawT_nohold :
    portOf (exec (.measureRawT 0x10) (running 0x1010 [])) = some (.requested (.write1 0xF3)) := by decide

theorem test_measureRawRh :
    ended (exec (.measureRawRh 0x10) (running 0x1110 (frameAnswers frame4E85) 0x01)) =
      some (0x4E84, 0x004E856B, 0x02) := by decide +kernel

theorem test_measureRawRh_badFrame :
    ended (exec (.measureRawRh 0x10) (running 0x1110 (frameAnswers ⟨0x4E, 0x85, 0x6A⟩) 0x01)) =
      some (0, 0, 0x32) := by decide +kernel

theorem test_getTemperatureC :
    ended (exec (.getTemperatureC 0) (running 0x1200 (frameAnswers frameFFFF))) =
      some (0x0001F75B, 0x00FFFF2D, 0x02) := by decide

theorem test_getTemperatureC_nohold :
    portOf (exec (.getTemperatureC 0) (running 0x1200 [] 0x10)) = some (.requested (.write1 0xF3)) := by decide

theorem test_getTemperatureF :
    ended (exec (.getTemperatureF 0) (running 0x1300 (frameAnswers frame683A))) =
      some (0x00012A93, 0x00683A7C, 0x02) := by decide

theorem test_getHumidity :
    ended (exec (.getHumidity 0) (running 0x1400 (frameAnswers frame683A ++ frameAnswers frame4E85))) =
      some (0x00007E52, 0x004E856B, 0x02) := by decide

theorem test_getHumidity_compensated :
    ended (exec (.getHumidity 0) (running 0x1400 (frameAnswers frame4000 ++ frameAnswers frame8000))) =
      some (52312, 0x00800023, 0x02) := by decide

/-- R180: `SVP(24686)` and `DEW(32338, p)` take either neighbour. -/
theorem test_getDewpointC_draws :
    ∀ a b, (svp a 24686).bind (dew b 32338) = some 7103 ∨ (svp a 24686).bind (dew b 32338) = some 7104 := by
  decide +kernel

/-- R180: with the humidity frame 00 00 00 the compensated humidity is -6000. -/
theorem test_getDewpointC_domain :
    ended (exec (.getDewpointC 0) (running 0x1500
      (frameAnswers frame683A ++ frameAnswers frame683A ++ frameAnswers frame0000))) = some (0, 0, 0x42) := by
  have h : ∀ a, ∃ p, svp a 24686 = some p ∧ 0 < p := by
    intro a
    have : ∀ a, svp a 24686 = some 23109228 ∨ svp a 24686 = some 23109229 := by decide +kernel
    rcases this a with h | h
    · exact ⟨_, h, by decide⟩
    · exact ⟨_, h, by decide⟩
  obtain ⟨p, hp, pos⟩ := h (Config.roundUp 0)
  have hd : dew (Config.roundUp 1) (-6000) p = none := by
    rw [dew, dewExact, if_pos (by omega)]; rfl
  let s := running 0x1500 (frameAnswers frame683A ++ (frameAnswers frame683A ++ (frameAnswers frame0000 ++ [])))
  have e : exec (.getDewpointC 0) s =
      .next ((progSvp (tempC (maskRaw frame683A)) fun p => progDew (-6000) p fun d =>
        .finishOk (intWord d) (frameWord frame0000)).run s) := by
    rw [exec_atStep (p := getDewpointC 0 s) rfl ⟨rfl, rfl⟩, getDewpointC, checkArg_legal _ rfl, dewpoint,
      resume_acquire _ _ _ _ _ _ (by decide), resume_acquire _ _ _ _ _ _ (by decide),
      resume_acquire _ _ _ _ _ _ (by decide), resume_nil,
      show humComp (tempC (maskRaw frame683A)) (humRaw (maskRaw frame0000)) = some (-6000) by decide]
    rfl
  show ended (exec (.getDewpointC 0) s) = _
  rw [e, progSvp, run_draw, show tempC (maskRaw frame683A) = 24686 by decide, show s.draws = 0 from rfl, hp,
    conversion, progDew, run_draw]
  show ended (.next { (conversion (dew (Config.roundUp 1) (-6000) p) _).run _ with port := _ }) = _
  rw [hd]
  decide

/-- R181. -/
theorem test_getDewpointF_values : tempF 7103 = some 44785 ∧ tempF 7104 = some 44787 := by decide

/-- R181: the third acquisition is the humidity one. -/
theorem test_getDewpointF_third :
    portOf (exec (.getDewpointF 0) (running 0x1600 (frameAnswers frame683A ++ frameAnswers frame683A))) =
      some (.requested (.write1 0xE5)) := by decide

theorem test_crcCheck :
    ended (exec (.crcCheck 0) (running 0x1700 [] 0 0x00683A00)) = some (0x7C, 0, 0x02) := by decide +kernel

theorem test_crcCheck_upper :
    ended (exec (.crcCheck 0) (running 0x1700 [] 0 0x01683A7C)) = some (0, 0, 0x12) := by decide

/-- V3. -/
theorem test_crc8 :
    crc8 0x00 0x01 = 0x31 ∧ crc8 0x6A 0x0C = 0xC6 ∧ crc8 0x56 0x00 = 0xBD ∧ crc8 0xFF 0xFC = 0x7E ∧
    crc8 0x00 0xDC = 0x79 := by decide +kernel

/-- E9, bits 0, 8 and 23. -/
theorem test_crc_flips :
    crcRem ⟨0x68, 0x3A, 0x7D⟩ = 0x01 ∧ crcRem ⟨0x68, 0x3B, 0x7C⟩ = 0x31 ∧ crcRem ⟨0xE8, 0x3A, 0x7C⟩ = 0x23 := by decide +kernel

/-! ### Converter: values of R220 to R226, E1, E4, E5, E6 -/

theorem test_convTempC_unmasked :
    ended (exec (.convTempC 0) (running 0x2000 [] 0 0x6A0E)) = some (25947, 0, 0x02) := by decide

theorem test_convTempC_range :
    ended (exec (.convTempC 0) (running 0x2000 [] 0 0x00010000)) = some (0, 0, 0x12) := by decide

theorem test_convTempF :
    ended (exec (.convTempF 0) (running 0x2100 [] 0 1)) = some (32002, 0, 0x02) := by decide

theorem test_convTempF_domain :
    ended (exec (.convTempF 0) (running 0x2100 [] 0 0x7FFFFFFF)) = some (0, 0, 0x42) := by decide

theorem test_convHumRaw :
    ended (exec (.convHumRaw 0) (running 0x2200 [] 0 0x5600)) = some (35992, 0, 0x02) := by decide

theorem test_convHumRaw_zero :
    ended (exec (.convHumRaw 0) (running 0x2200 [])) = some (0xFFFFE890, 0, 0x02) := by decide

theorem test_convHumComp_below :
    ended (exec (.convHumComp 0) (running 0x2300 [] 0 0xFFFFFFFF 50000)) = some (46250, 0, 0x02) := by decide

theorem test_convHumComp_above :
    ended (exec (.convHumComp 0) (running 0x2300 [] 0 80001 50000)) = some (58250, 0, 0x02) ∧
    ended (exec (.convHumComp 0) (running 0x2300 [] 0 80000 50000)) = some (50000, 0, 0x02) := by decide

/-- R224: the two neighbours at 25 °C, and the last operand with a result. -/
theorem test_svp_values :
    (∀ up, svp up 25000 = some 23547246 ∨ svp up 25000 = some 23547247) ∧
    (svpExact 155961).map (·.floor) = some 4294930512 ∧ ∀ up, svp up 155962 = none := by decide +kernel

/-- R224: CONV_SVP returns one of them, whatever is drawn. -/
theorem test_convSvp :
    ended (exec (.convSvp 0) (running 0x2400 [] 0 25000)) = some (23547246, 0, 0x02) ∨
    ended (exec (.convSvp 0) (running 0x2400 [] 0 25000)) = some (23547247, 0, 0x02) := by
  have e : exec (.convSvp 0) (running 0x2400 [] 0 25000) = .next ((progSvp 25000 fun p => .finishOk (intWord p) 0).run
      (running 0x2400 [] 0 25000)) := rfl
  rw [e, progSvp, run_draw]
  rcases test_svp_values.1 (Config.roundUp 0) with h | h
  · exact .inl (by rw [show (running 0x2400 [] 0 25000).draws = 0 from rfl, h]; decide)
  · exact .inr (by rw [show (running 0x2400 [] 0 25000).draws = 0 from rfl, h]; decide)

/-- R225, E6, E10: the two neighbours. -/
theorem test_dew_values :
    (∀ up, dew up 50000 23547246 = some 13889 ∨ dew up 50000 23547246 = some 13890) ∧
    (∀ up, dew up 100000 23547246 = some 24999 ∨ dew up 100000 23547246 = some 25000) ∧
    (∀ up, dew up 1 23547246 = some (-85813) ∨ dew up 1 23547246 = some (-85812)) := by decide +kernel

/-- R225: CONV_DEW_C returns one of them, whatever is drawn. -/
theorem test_convDewC :
    ended (exec (.convDewC 0) (running 0x2500 [] 0 0 50000 23547246)) = some (13889, 0, 0x02) ∨
    ended (exec (.convDewC 0) (running 0x2500 [] 0 0 50000 23547246)) = some (13890, 0, 0x02) := by
  have e : exec (.convDewC 0) (running 0x2500 [] 0 0 50000 23547246) =
      .next ((progDew 50000 23547246 fun d => .finishOk (intWord d) 0).run (running 0x2500 [] 0 0 50000 23547246)) := rfl
  rw [e, progDew, run_draw]
  rcases test_dew_values.1 (Config.roundUp 0) with h | h
  · exact .inl (by rw [show (running 0x2500 [] 0 0 50000 23547246).draws = 0 from rfl, h]; decide)
  · exact .inr (by rw [show (running 0x2500 [] 0 0 50000 23547246).draws = 0 from rfl, h]; decide)

theorem test_convDewF :
    ended (exec (.convDewF 0) (running 0x2600 [] 0 13889)) = some (57000, 0, 0x02) := by decide

theorem test_convDewF_next :
    ended (exec (.convDewF 0) (running 0x2600 [] 0 13890)) = some (57002, 0, 0x02) := by decide

/-- R211. -/
theorem test_rdiv : rdiv 7 2 = 4 ∧ rdiv (-7) 2 = -3 ∧ rdiv (-1077750) 100 = -10777 ∧ rdiv 9 5 = 2 := by decide

/-! ### Wire commands (R120): the transaction on the trace -/

theorem test_wireTrigTHold :
    traceOf (exec .wireTrigTHold (idleWith [])) = some [.acquire, .issue (.write1 0x40 0xE3)] := by decide

theorem test_wireTrigTNohold :
    traceOf (exec .wireTrigTNohold (idleWith [])) = some [.acquire, .issue (.write1 0x40 0xF3)] := by decide

theorem test_wireTrigRhHold :
    traceOf (exec .wireTrigRhHold (idleWith [])) = some [.acquire, .issue (.write1 0x40 0xE5)] := by decide

theorem test_wireTrigRhNohold :
    traceOf (exec .wireTrigRhNohold (idleWith [])) = some [.acquire, .issue (.write1 0x40 0xF5)] := by decide

theorem test_wireReadUserReg :
    traceOf (exec .wireReadUserReg (idleWith [])) = some [.acquire, .issue (.write1 0x40 0xE7)] := by decide

theorem test_wireSoftReset :
    traceOf (exec .wireSoftReset (idleWith [])) = some [.acquire, .issue (.write1 0x40 0xFE)] := by decide

theorem test_wireWriteUserReg :
    traceOf (exec (.wireWriteUserReg 0xCB) (idleWith [])) =
      some [.acquire, .issue (.write2 0x40 0xE6 0xCB)] := by decide

/-! ### The host port and reset -/

/-- R27. -/
theorem test_ctrl_write :
    (match step (idleWith [.hostWrite ⟨0x08, 32, 0xF⟩ 0xFFFFFFFF]) with | .next t => t.ctrl | _ => 0) = 0x11 := by decide

/-- V1, word 0x80000381. -/
theorem test_illegal_status : ended (step (running 0x80000381 [])) = some (0, 0, 0x52) := by decide

/-- Part 2: running, a write was rejected. -/
theorem test_rejected_status :
    ended (step { running 0x0100 [] with inputs := [.hostWrite (regAccess .cmd) 0x0200] }) = some (0, 0, 0x05) := by decide

/-- R62. -/
theorem test_misaligned_refused :
    refusedAccess (step (idleWith [.hostRead ⟨0x02, 32, 0xF⟩])) = some ⟨0x02, 32, 0xF⟩ := by decide

/-- R291. -/
theorem test_reset_releases :
    traceOf (step (waitingFor (.read1 0x40) [.reset])) = some [.release] := by decide

/-- R130: `CMD SET_RESOLUTION 0x81` is (0x00, 0x00000381). -/
theorem test_lineInput : lineInput (.cmd 0x03 0x81) = .hostWrite ⟨0x00, 32, 0xF⟩ 0x00000381 := by decide

/-- R141: the reference sensor then holds 0xC3. -/
theorem test_reference_sensor :
    sensorWrite2 0xE6 0x83 ⟨0x4A, .reg, frame0000, true, 0, 0, 0⟩ = ⟨0xC3, .reg, frame0000, true, 0, 0, 0⟩ := by decide

/-! ### Witnesses: states and operands that meet the hypotheses of each statement, at the ends of each clause -/

/-- The positions of a read-modify-write command (R147). -/
def rmwPositions : List (List Answer) :=
  [[], [.ok], [.ok, .okByte 0x4A], [.ok, .okByte 0x4A, .ok], [.err], [.ok, .err], [.ok, .okByte 0x4A, .err]]

/-- The positions of one acquisition (R171). -/
def oneAcquisition : List (List Answer) :=
  [[], [.ok], [.ok, .ok], [.ok, .ok, .okByte 0x68], [.ok, .ok, .okByte 0x68, .okByte 0x3A], [.err], [.ok, .ok, .err],
    [.ok, .ok, .okByte 0x68, .err], [.ok, .ok, .okByte 0x68, .okByte 0x3A, .err], frameAnswers frame683A]

/-- The positions of one acquisition after the answers `pre` (R171). -/
def acquirePositions (pre : List Answer) : List (List Answer) := oneAcquisition.map (pre ++ ·)

theorem witness_DecodedWordsEncodeToThemselves :
    decodeCmd 0x00000381 = .ok (.setResolution 0x81) ∧
    (0x000026FF#32).extractLsb' 16 16 = 0 ∧ (0x000026FF#32).extractLsb' 8 8 ∈ assignedOpcodes ∧
    (0x00000100#32).extractLsb' 8 8 ∈ assignedOpcodes := ⟨rfl, by decide⟩

theorem witness_IllegalWordEndsInItsFirstStep :
    let s := idleWith [.hostWrite (regAccess .cmd) 0x00010100, .tick]
    let z := idleWith [.hostWrite (regAccess .cmd) 0x00000000, .tick]
    (s.busy = false ∧ s.port = .idle ∧ s.inputs = [.hostWrite (regAccess .cmd) 0x00010100, .tick] ∧
      (0x00010100#32).extractLsb' 16 16 ≠ 0) ∧
    (z.busy = false ∧ z.port = .idle ∧ z.inputs = [.hostWrite (regAccess .cmd) 0x00000000, .tick] ∧
      (0x00000000#32).extractLsb' 8 8 ∉ assignedOpcodes ∧ (0x0000FF00#32).extractLsb' 8 8 ∉ assignedOpcodes) := by decide

theorem witness_IllegalArgumentEndsInItsFirstStep :
    (Instr.setResolution 0x02).wellFormed = false ∧ AtStep (running 0x0302 []) [] ∧
    (Instr.setHeater 0x02).wellFormed = false ∧ AtStep (running 0x0402 []) [] ∧
    (Instr.measureRawRh 0x20).wellFormed = false ∧ AtStep (running 0x1120 []) [] ∧
    (Instr.crcCheck 0x10).wellFormed = false ∧ AtStep (running 0x1710 []) [] := by decide

theorem witness_ReadConfigReadsTheUserRegister :
    (0x01 : Byte) ≠ 0 ∧ (0xFF : Byte) ≠ 0 ∧
    ∀ got ∈ [[], [.ok], [.ok, .okByte 0x4A], [.err], [.ok, .err]], AtStep (running 0x0100 got) got := by decide

theorem witness_WriteConfigWritesTheByteAsGiven :
    ∀ got ∈ [[], [.ok], [.err]], AtStep (running 0x02FF got) got := by decide

theorem witness_SetResolutionChangesOnlyBitsSevenAndZero :
    (∀ got ∈ rmwPositions, AtStep (running 0x0381 got) got) ∧
    AtStep (running 0x0302 []) [] ∧ (0x02 : Byte) ≠ 0x00 ∧ (0x02 : Byte) ≠ 0x01 ∧ (0x02 : Byte) ≠ 0x80 ∧
    (0x02 : Byte) ≠ 0x81 := by decide

theorem witness_SetHeaterChangesOnlyBitTwo :
    (∀ got ∈ rmwPositions, AtStep (running 0x0400 got) got ∧ AtStep (running 0x0401 got) got) ∧
    AtStep (running 0x0402 []) [] ∧ 2 ≤ (0x02 : Byte).toNat ∧ 2 ≤ (0xFF : Byte).toNat := by decide

theorem witness_SetOtpReloadChangesOnlyBitOneInverted :
    (∀ got ∈ rmwPositions, AtStep (running 0x0500 got) got ∧ AtStep (running 0x0501 got) got) ∧
    AtStep (running 0x0502 []) [] ∧ 2 ≤ (0x02 : Byte).toNat ∧ 2 ≤ (0xFF : Byte).toNat := by decide

theorem witness_IsBatteryLowTestsBitSix :
    (0x01 : Byte) ≠ 0 ∧
    ∀ got ∈ [[], [.ok], [.ok, .okByte 0x40], [.ok, .okByte 0xBF], [.err], [.ok, .err]],
      AtStep (running 0x0600 got) got := by decide

theorem witness_SoftResetWaitsBeforeItCompletes :
    (0x01 : Byte) ≠ 0 ∧ ∀ got ∈ [[], [.ok], [.ok, .ok], [.err]], AtStep (running 0x0700 got) got := by decide

/-- With CRC_EN set, a good frame is accepted and a bad one is not; without it, both are. -/
theorem witness_accepted :
    accepted (running 0x1000 [] 0x01) frame683A = true ∧
    accepted (running 0x1000 [] 0x00) ⟨0x68, 0x3A, 0x7D⟩ = true ∧
    crcEnabled (running 0x1000 [] 0x01) = true ∧ crcRem ⟨0x68, 0x3A, 0x7D⟩ ≠ 0 := by decide +kernel

theorem witness_MeasureRawTReturnsTheMaskedWord :
    (∀ got ∈ acquirePositions [], AtStep (running 0x1000 got 0x01) got ∧ AtStep (running 0x1010 got) got) ∧
    AtStep (running 0x1000 (frameAnswers ⟨0x68, 0x3A, 0x7D⟩) 0x01) (frameAnswers ⟨0x68, 0x3A, 0x7D⟩) ∧
    AtStep (running 0x1020 []) [] ∧ (0x20 : Byte) ≠ 0x00 ∧ (0x20 : Byte) ≠ 0x10 := by decide

theorem witness_MeasureRawRhReturnsTheMaskedWord :
    (∀ got ∈ acquirePositions [], AtStep (running 0x1100 got 0x01) got ∧ AtStep (running 0x1110 got) got) ∧
    AtStep (running 0x1100 (frameAnswers ⟨0x4E, 0x85, 0x6A⟩) 0x01) (frameAnswers ⟨0x4E, 0x85, 0x6A⟩) ∧
    AtStep (running 0x1120 []) [] ∧ (0x20 : Byte) ≠ 0x00 ∧ (0x20 : Byte) ≠ 0x10 := by decide

theorem witness_GetTemperatureCMeasuresAndConverts :
    (0x01 : Byte) ≠ 0 ∧
    ∀ got ∈ acquirePositions [], AtStep (running 0x1200 got 0x11) got ∧ AtStep (running 0x1200 got) got := by decide

theorem witness_GetTemperatureFMeasuresAndConverts :
    (0x01 : Byte) ≠ 0 ∧
    ∀ got ∈ acquirePositions [], AtStep (running 0x1300 got 0x11) got ∧ AtStep (running 0x1300 got) got := by decide

theorem witness_GetHumidityMeasuresTemperatureThenHumidity :
    (0x01 : Byte) ≠ 0 ∧
    ∀ got ∈ acquirePositions [] ++ acquirePositions (frameAnswers frame683A), AtStep (running 0x1400 got 0x11) got := by
  decide

/-- The third acquisition's positions, and a humidity that is not above zero beside one that is (R180's example). -/
theorem witness_GetDewpointCMeasuresThreeTimes :
    (0x01 : Byte) ≠ 0 ∧
    (∀ got ∈ acquirePositions [] ++ acquirePositions (frameAnswers frame683A) ++
      acquirePositions (frameAnswers frame683A ++ frameAnswers frame683A), AtStep (running 0x1500 got 0x11) got) ∧
    humComp (tempC (rawOf frame683A)) (humRaw (rawOf frame0000)) = some (-6000) ∧
    humComp (tempC (rawOf frame683A)) (humRaw (rawOf frame4E85)) = some 32338 := by decide

theorem witness_GetDewpointFMeasuresThreeTimes :
    (0x01 : Byte) ≠ 0 ∧
    (∀ got ∈ acquirePositions [] ++ acquirePositions (frameAnswers frame683A) ++
      acquirePositions (frameAnswers frame683A ++ frameAnswers frame683A), AtStep (running 0x1600 got 0x11) got) ∧
    humComp (tempC (rawOf frame683A)) (humRaw (rawOf frame0000)) = some (-6000) ∧
    humComp (tempC (rawOf frame683A)) (humRaw (rawOf frame4E85)) = some 32338 := by decide

theorem witness_CrcCheckReturnsTheRemainder :
    AtStep (running 0x1700 [] 0 0x00FFFFFF) [] ∧ (running 0x1700 [] 0 0x00FFFFFF).lOpa.extractLsb' 24 8 = 0 ∧
    AtStep (running 0x1700 [] 0 0x01000000) [] ∧ (running 0x1700 [] 0 0x01000000).lOpa.extractLsb' 24 8 ≠ 0 := by decide

theorem witness_ConvTempCConvertsTheUnmaskedCode :
    AtStep (running 0x2000 [] 0 0xFFFF) [] ∧ (running 0x2000 [] 0 0xFFFF).lOpa.toNat ≤ 0xFFFF ∧
    AtStep (running 0x2000 [] 0 0x10000) [] ∧ 0xFFFF < (running 0x2000 [] 0 0x10000).lOpa.toNat := by decide

/-- Operand words at the four ends of TEMPF's range. -/
theorem witness_ConvTempFConvertsOrRaises :
    AtStep (running 0x2100 [] 0 (BitVec.ofInt 32 1193028693)) [] ∧ (BitVec.ofInt 32 1193028693).toInt = 1193028693 ∧
    AtStep (running 0x2100 [] 0 (BitVec.ofInt 32 1193028694)) [] ∧ 1193028693 < (BitVec.ofInt 32 1193028694).toInt ∧
    (BitVec.ofInt 32 (-1193064249)).toInt = -1193064249 ∧ (BitVec.ofInt 32 (-1193064250)).toInt < -1193064249 := by decide

theorem witness_ConvHumRawConvertsTheUnmaskedCode :
    AtStep (running 0x2200 [] 0 0xFFFF) [] ∧ (running 0x2200 [] 0 0xFFFF).lOpa.toNat ≤ 0xFFFF ∧
    AtStep (running 0x2200 [] 0 0x10000) [] ∧ 0xFFFF < (running 0x2200 [] 0 0x10000).lOpa.toNat := by decide

/-- The closed band's ends, the first compensated points, and sums at and past the end of s32. -/
theorem witness_ConvHumCompCompensatesOutsideTheBand :
    AtStep (running 0x2300 [] 0 80000 50000) [] ∧ (80000#32).toInt = 80000 ∧
    AtStep (running 0x2300 [] 0 0xFFFFFFFF 50000) [] ∧ (0xFFFFFFFF#32).toInt < 0 ∧ 80000 < (80001#32).toInt ∧
    (0x7FFFFFFF#32).toInt - 8250 + rdiv ((80001 - 25000) * 15) 100 < 2 ^ 31 ∧
    2 ^ 31 ≤ (0x7FFFFFFF#32).toInt - 8249 + rdiv ((80001 - 25000) * 15) 100 ∧
    -2 ^ 31 ≤ (0x80000000#32).toInt + 3750 + rdiv ((-1 - 25000) * 15) 100 ∧
    (0x80000000#32).toInt + 3749 + rdiv ((-1 - 25000) * 15) 100 < -2 ^ 31 := by decide

theorem witness_ConvSvpReturnsANeighbourOfThePressure :
    AtStep (running 0x2400 [] 0 25000) [] ∧ -235660 < (BitVec.ofInt 32 (-235659)).toInt ∧ (155961#32).toInt < 155962 ∧
    AtStep (running 0x2400 [] 0 0xFFFC6774) [] ∧ (0xFFFC6774#32).toInt = -235660 ∧ 155962 ≤ (155962#32).toInt := by decide

theorem witness_ConvDewCReturnsANeighbourOfTheDewPoint :
    AtStep (running 0x2500 [] 0 0 1 1) [] ∧ 0 < (1#32).toInt ∧ (running 0x2500 [] 0 0 1 1).lOpc ≠ 0 ∧
    AtStep (running 0x2500 [] 0 0 0 1) [] ∧ (0#32).toInt ≤ 0 ∧
    AtStep (running 0x2500 [] 0 0 1 0) [] ∧ (running 0x2500 [] 0 0 1 0).lOpc = 0 := by decide

theorem witness_ConvDewFConvertsOrRaises :
    AtStep (running 0x2600 [] 0 (BitVec.ofInt 32 1193028693)) [] ∧
    AtStep (running 0x2600 [] 0 (BitVec.ofInt 32 1193028694)) [] ∧ 1193028693 < (BitVec.ofInt 32 1193028694).toInt ∧
    (BitVec.ofInt 32 (-1193064249)).toInt = -1193064249 ∧ (BitVec.ofInt 32 (-1193064250)).toInt < -1193064249 := by decide

theorem witness_WireCommandsIssueTheirTransaction :
    (∀ t, (idleWith []).port ≠ .outstanding t) ∧
    ∀ t, ({ idleWith [] with port := .requested (.write1 0xE3) } : State).port ≠ .outstanding t :=
  ⟨nofun, nofun⟩

theorem witness_StepRunsTheDecodedCommand :
    AtStep (running 0x2000 []) [] ∧ decodeCmd (running 0x2000 []).lCmd = .ok (.convTempC 0) ∧
    (running 0x2000 []).inputs = [] ∧
    AtStep { running 0x0100 [.ok] with inputs := [.tick] } [.ok] ∧
    (∀ op, (idleWith []).port ≠ .requested op) :=
  ⟨⟨rfl, rfl⟩, rfl, rfl, ⟨rfl, rfl⟩, nofun⟩

theorem witness_StepRunsTheRequestedWireCommand :
    let s : State := { running 0x0200 [] with port := .requested (.write2 0xE6 0xCB) }
    s.port = .requested (.write2 0xE6 0xCB) ∧ wireBytesOf (.write2 0xE6 0xCB) = some [0xE6, 0xCB] ∧
    decode (.wire [0xE6, 0xCB]) = .ok (.wireWriteUserReg 0xCB) ∧ s.inputs = [] :=
  ⟨rfl, rfl, rfl, rfl⟩

/-- One state for each kind of transaction. -/
theorem witness_TransactionsAreIssuedInTheAskingStep :
    (AtStep (running 0x0100 []) [] ∧ decodeCmd 0x0100 = .ok (.readConfig 0) ∧
      exec (.readConfig 0) (running 0x0100 []) = .next (asking (.write1 0xE7) (running 0x0100 []))) ∧
    (AtStep (running 0x02CB []) [] ∧ decodeCmd 0x02CB = .ok (.writeConfig 0xCB) ∧
      exec (.writeConfig 0xCB) (running 0x02CB []) = .next (asking (.write2 0xE6 0xCB) (running 0x02CB []))) ∧
    (AtStep (running 0x0100 [.ok]) [.ok] ∧
      exec (.readConfig 0) (running 0x0100 [.ok]) = .next (asking .read1 (running 0x0100 [.ok]))) ∧
    (AtStep (running 0x0700 [.ok]) [.ok] ∧ decodeCmd 0x0700 = .ok (.softReset 0) ∧
      exec (.softReset 0) (running 0x0700 [.ok]) = .next (asking (.sleep 15) (running 0x0700 [.ok]))) :=
  ⟨⟨⟨rfl, rfl⟩, rfl, rfl⟩, ⟨⟨rfl, rfl⟩, rfl, rfl⟩, ⟨⟨rfl, rfl⟩, rfl⟩, ⟨⟨rfl, rfl⟩, rfl, rfl⟩⟩

theorem witness_AnswersAdvanceTheCommand :
    (∀ t ∈ [.write1 0x40 0xE7, .write2 0x40 0xE6 0xCB, .read1 0x40, .sleep 15],
      (waitingFor t [.answer true 0x4A]).inputs = [.answer true 0x4A] ∧ (waitingFor t []).seq = .run [] ∧
      (waitingFor t []).port = .outstanding t) ∧
    ∀ t, ({ running 0x0100 [] with inputs := [.answer true 0x4A] } : State).port ≠ .outstanding t :=
  ⟨by decide, nofun⟩

theorem witness_UnansweredTransactionKeepsWaiting :
    (waitingFor (.read1 0x40) []).port = .outstanding (.read1 0x40) ∧ (waitingFor (.read1 0x40) []).inputs = [] ∧
    (waitingFor (.read1 0x40) [.tick]).inputs = [.tick] ∧
    (waitingFor (.read1 0x40) [.hostWrite (regAccess .cmd) 0x0100]).busy = true := by decide

theorem witness_CmdWriteIsAcceptedOrRejected :
    (idleWith [.hostWrite (regAccess .cmd) 0x0381]).inputs = [.hostWrite (regAccess .cmd) 0x0381] ∧
    (idleWith [.hostWrite (regAccess .cmd) 0x0381]).busy = false ∧
    (waitingFor (.read1 0x40) [.hostWrite (regAccess .cmd) 0x0381]).busy = true := by decide

/-- The sixteen offsets, each under one clause. -/
theorem witness_HostReadsReturnTheRegister :
    (∀ k ∈ List.range 16, Access.wellFormed ⟨4 * k, 32, 0xF⟩ = true) ∧
    (idleWith [.hostRead ⟨0x3C, 32, 0xF⟩]).inputs = [.hostRead ⟨0x3C, 32, 0xF⟩] := by decide

theorem witness_HostWritesStoreOrAreIgnored :
    (∀ k ∈ List.range 16, Access.wellFormed ⟨4 * k, 32, 0xF⟩ = true) ∧
    (idleWith [.hostWrite ⟨0x08, 32, 0xF⟩ 0x11]).inputs = [.hostWrite ⟨0x08, 32, 0xF⟩ 0x11] := by decide

theorem witness_UndefinedAccessesAreRefused :
    (idleWith [.hostRead ⟨0x3D, 32, 0xF⟩]).inputs = [.hostRead ⟨0x3D, 32, 0xF⟩] ∧
    (idleWith [.hostWrite ⟨0x3C, 32, 0x7⟩ 1]).inputs = [.hostWrite ⟨0x3C, 32, 0x7⟩ 1] := by decide

theorem witness_ResetAbandonsTheRunningCommand :
    (waitingFor (.read1 0x40) [.reset, .answer false 0x4A]).inputs = [.reset, .answer false 0x4A] := by decide

/-- The last step of READ_CONFIG, which changes RES0. -/
theorem witness_NoInstructionChangesTheOtherRegisters :
    exec (.readConfig 0) (running 0x0100 [.ok, .okByte 0x4A]) =
      .next (succeeded 0x4A 0 (running 0x0100 [.ok, .okByte 0x4A])) ∧
    (succeeded 0x4A 0 (running 0x0100 [.ok, .okByte 0x4A])).res0 ≠ (running 0x0100 [.ok, .okByte 0x4A]).res0 :=
  ⟨rfl, by decide⟩

theorem witness_CommandsReadOnlyTheirLatches :
    ∃ t, exec (.convTempC 0) (running 0x2000 []) = .next t := ⟨_, rfl⟩

/-- The longest command and the shortest ones, at their last positions. -/
theorem witness_CommandsEndWithinTheirTransactionCount :
    transactionsOf (.getDewpointC 0) = some 15 ∧
    (15 ≤ (frameAnswers frame683A ++ frameAnswers frame683A ++ frameAnswers frame4E85).length) ∧
    transactionsOf (.crcCheck 0) = some 0 ∧ AtStep (running 0x1700 []) [] ∧ 0 ≤ ([] : List Answer).length := by decide

/-- The invariant in the middle of a command, with a transaction unanswered. -/
def midCommand (inputs : List Input) : State :=
  { running 0x00000100 [.ok] with
    busHeld := true, port := .outstanding (.read1 0x40), inputs := inputs
    trace := [.acquire, .issue (.write1 0x40 0xE7), .answer .ok, .issue (.read1 0x40)] }

theorem witness_inv_midCommand (inputs : List Input) : Inv (midCommand inputs) where
  ctrl := (by decide : (0#32 &&& ~~~ 17#32) = 0)
  lCtrl := (by decide : (0#32 &&& ~~~ 17#32) = 0)
  busyRuns := ⟨fun _ => nofun, fun _ => rfl⟩
  busyClear := fun _ => ⟨rfl, rfl⟩
  heldBusy := fun _ => rfl
  outstandingHeld := fun _ _ => rfl
  driven := nofun
  span := rfl
  txns := by
    intro t ht
    simp only [midCommand, List.mem_cons, List.not_mem_nil, or_false, reduceCtorEq, false_or,
      BusEvent.issue.injEq] at ht
    rcases ht with rfl | rfl
    · exact ⟨rfl, by decide⟩
    · rfl

theorem witness_EveryStepKeepsTheInvariant :
    Inv (midCommand [.answer false 0x4A]) ∧ ∃ t, step (midCommand [.answer false 0x4A]) = .next t :=
  ⟨witness_inv_midCommand _, _, rfl⟩

theorem witness_InvariantStatesStepSafely :
    Inv (midCommand [.hostRead ⟨0x02, 32, 0xF⟩]) ∧
    step (midCommand [.hostRead ⟨0x02, 32, 0xF⟩]) = .refused (.undefinedHostAccess ⟨0x02, 32, 0xF⟩) :=
  ⟨witness_inv_midCommand _, rfl⟩

theorem witness_StepPointerMovesForward :
    Inv (midCommand [.answer false 0x4A]) ∧ (midCommand [.answer false 0x4A]).seq = .run [.ok] ∧
    ∃ t, step (midCommand [.answer false 0x4A]) = .next t ∧ t.seq = .run [.ok, .okByte 0x4A] :=
  ⟨witness_inv_midCommand _, rfl, _, rfl, rfl⟩

/-- Set by a rejected write; cleared by an accepted one and by a reset. -/
theorem witness_OnlyCmdWritesAndResetChangeCollision :
    (∃ t, step (midCommand [.hostWrite ⟨0x00, 32, 0xF⟩ 0x0100]) = .next t ∧ t.collision ≠ (midCommand []).collision) ∧
    (∃ t, step { idleWith [.hostWrite ⟨0x00, 32, 0xF⟩ 0x0100] with collision := true } = .next t ∧
      t.collision ≠ true) ∧
    ∃ t, step { idleWith [.reset] with collision := true } = .next t ∧ t.collision ≠ true :=
  ⟨⟨_, rfl, by decide⟩, ⟨_, rfl, by decide⟩, ⟨_, rfl, by decide⟩⟩

/-- The inputs of SET_RESOLUTION 0x81 over a register of 0x4A (R142's example). -/
def setResolutionInputs : List Input :=
  [.hostWrite (regAccess .cmd) (0x00000300 ||| (0x81 : Byte).setWidth 32), .tick, .answer false 0x00, .tick,
    .answer false 0x4A, .tick, .answer false 0x00, .tick]

theorem witness_SetResolutionWholeRun :
    (idleWith setResolutionInputs).busy = false ∧ (idleWith setResolutionInputs).port = .idle ∧
    (idleWith setResolutionInputs).busHeld = false ∧ (idleWith setResolutionInputs).inputs = setResolutionInputs := by
  decide

/-- The inputs of GET_TEMPERATURE_C with the frame `f` (R177's example). -/
def getTemperatureInputs (f : Frame) : List Input :=
  [.hostWrite (regAccess .cmd) 0x00001200, .tick, .answer false 0, .tick, .answer false 0, .tick, .answer false f.msb,
    .tick, .answer false f.lsb, .tick, .answer false f.crc, .tick]

theorem witness_GetTemperatureCWholeRun :
    let s : State := { idleWith (getTemperatureInputs frame683A) with ctrl := 0x01 }
    s.busy = false ∧ s.port = .idle ∧ s.busHeld = false ∧ s.ctrl.getLsbD 4 = false ∧
    (s.ctrl.getLsbD 0 = true → crcRem frame683A = 0) ∧ s.inputs = getTemperatureInputs frame683A := by decide +kernel

/-- The inputs of SET_RESOLUTION 0x81, then READ_CONFIG, with the reference sensor answering. -/
def resolutionInputs : List Input :=
  [.hostWrite (regAccess .cmd) (0x00000300 ||| (0x81 : Byte).setWidth 32), .tick, .tick, .tick, .tick,
    .hostWrite (regAccess .cmd) 0x00000100]

theorem witness_ResolutionReadsBackFromTheReferenceSensor :
    (idleWith resolutionInputs).busy = false ∧ (idleWith resolutionInputs).port = .idle ∧
    (idleWith resolutionInputs).inputs = resolutionInputs := by decide

theorem witness_SingleBitErrorsAreDetected :
    crcRem frame683A = 0 ∧ 23 < 24 ∧
    (0xE8 : Byte) ++ (0x3A : Byte) ++ (0x7C : Byte) =
      (frame683A.msb ++ frame683A.lsb ++ frame683A.crc) ^^^ (1#24 <<< 23) := by decide +kernel

theorem witness_RdivIsTheNearestInteger : (0 : Int) < 1 ∧ (0 : Int) < 65536 := by decide

/-- TEMPF at the four ends of its range. -/
theorem witness_FahrenheitIsWithinTwoFifths :
    (tempF 1193028693).isSome = true ∧ (tempF (-1193064249)).isSome = true ∧ tempF 1193028694 = none ∧
    tempF (-1193064250) = none := by decide

/-- HUMCOMP at the band's ends and at the ends of s32. -/
theorem witness_CompensationIsRoundedOnce :
    humComp 0 50000 = some 50000 ∧ humComp 80000 50000 = some 50000 ∧ humComp (-1) 50000 = some 46250 ∧
    humComp 80001 50000 = some 58250 ∧ humComp 80001 2147475397 = some 2147483647 ∧
    humComp 80001 2147475398 = none := by decide

/-- Both of DEW's outcomes, at the ends of the operands' ranges. -/
theorem witness_DewReturnsExactlyTheNeighbours :
    (-2 ^ 31 ≤ (2147483647 : Int) ∧ (2147483647 : Int) ≤ 2 ^ 31 - 1 ∧ (0 : Int) ≤ 4294967295 ∧
      (4294967295 : Int) ≤ 2 ^ 32 - 1 ∧ (dew true 2147483647 4294967295).isSome = true) ∧
    dew true (-2147483648) 4294967295 = none ∧ dew true 1 0 = none := by decide +kernel

theorem witness_MeasuredInputsStayInRange :
    dew false 50000 23547246 = some 13889 ∧ (tempF 13889).isSome = true := by decide +kernel

/-- Two humidities of E10 whose dew points are far apart. -/
theorem witness_DewPointFollowsHumidity :
    dewReal 40000 23547246 + 1 ≤ dewReal 50000 23547246 ∧
    dew true 40000 23547246 = some 10512 ∧ dew false 50000 23547246 = some 13889 := by
  refine ⟨?_, by decide +kernel⟩
  obtain ⟨e1, h1, -, c1⟩ := dewExact_spec (h := 40000) (p := 23547246) (by norm_num) (by norm_num)
  obtain ⟨e2, h2, f2, -⟩ := dewExact_spec (h := 50000) (p := 23547246) (by norm_num) (by norm_num)
  have k1 : (dewExact 40000 23547246).map (·.ceil) = some 10512 := by decide +kernel
  have k2 : (dewExact 50000 23547246).map (·.floor) = some 13889 := by decide +kernel
  rw [h1] at k1
  rw [h2] at k2
  have a : dewReal 40000 23547246 ≤ 10512 := by
    have := Int.ceil_le.mp (le_of_eq (c1.symm.trans (Option.some.inj k1)))
    exact_mod_cast this
  have b : (13889 : ℝ) ≤ dewReal 50000 23547246 := by
    have := Int.le_floor.mp (le_of_eq (f2.symm.trans (Option.some.inj k2)).symm)
    exact_mod_cast this
  linarith

end Sys2Proof.Tests
end

section
/-! SUPPORT for the statements about the state. The discipline of a command's pseudocode (`Disciplined`): which
transactions it may ask for (R72, R265), how many (R303), and that no transaction follows a draw (D45). -/

namespace Sys2Proof.Proofs

open Sys2Proof.Machine Sys2Proof.Safety

/-! ### Requests HTSC may make -/

/-- A request whose transaction, at DEV_ADDR, is one HTSC may issue (R72, R265). -/
def RequestOk : BusOp → Prop
  | .write1 b => b ∈ oneByteCommands
  | .write2 c _ => c = 0xE6
  | .read1 => True
  | .sleep ms => ms = 300 ∨ ms = 15

theorem RequestOk.txnOk {op : BusOp} (h : RequestOk op) (a : BusAddr) : TxnOk a (addressed a op) := by
  cases op with
  | write1 b => exact ⟨rfl, h⟩
  | write2 c d => exact ⟨rfl, h⟩
  | read1 => exact rfl
  | sleep ms => exact h

/-- The port drives such a request as its transaction (R41, R69, R71). -/
theorem RequestOk.drive {op : BusOp} (h : RequestOk op) (s : State) :
    drivePort (asking op s) = .next (issued (addressed s.devaddr op) s) := by
  refine drivePort_asking ?_
  cases op with
  | write1 b => exact .inl ⟨b, h, rfl⟩
  | write2 c d => exact .inr (.inl ⟨d, congrArg (BusOp.write2 · d) h⟩)
  | read1 => exact .inr (.inr (.inl rfl))
  | sleep ms => exact .inr (.inr (.inr ⟨ms, rfl⟩))

theorem requestOk_trigger {mode : Byte} (q : Quantity) (h : argLegal .mode mode = true) :
    RequestOk (.write1 (triggerByte q mode)) := by
  have hm : mode = 0x00 ∨ mode = 0x10 := by simpa [argLegal] using h
  show triggerByte q mode ∈ oneByteCommands
  rcases hm with rfl | rfl <;> cases q <;> decide

/-- The mode the GET_* commands take from the CTRL latch is legal (R29). -/
theorem modeByte_legal (s : State) : argLegal .mode (modeByte s) = true := by
  rcases modeByte_cases s with h | h <;> rw [h] <;> rfl

/-! ### Disciplined pseudocode -/

/-- Pseudocode with at most `n` transactions left, each one HTSC may make, and none after a draw. -/
inductive Disciplined : Nat → Prog → Prop
  | bus {n : Nat} {op : BusOp} {next : Answer → Prog} (ok : RequestOk op) (rest : ∀ a, Disciplined n (next a)) :
      Disciplined (n + 1) (.bus op next)
  | draw {n : Nat} {next : Bool → Prog} (rest : ∀ up, Disciplined 0 (next up)) : Disciplined n (.draw next)
  | finish {n : Nat} (code : ErrCode) : Disciplined n (.finish code)
  | finishOk {n : Nat} (r0 r1 : Word) : Disciplined n (.finishOk r0 r1)

section Phrases

variable {n : Nat} {α : Type}

theorem disciplined_checkArg {kind : ArgKind} {arg : Byte} {p : Prog}
    (h : argLegal kind arg = true → Disciplined n p) : Disciplined n (checkArg kind arg p) := by
  unfold checkArg
  split
  · exact h ‹_›
  · exact .finish _

theorem disciplined_operand {o : Option α} {k : α → Prog} (h : ∀ x, Disciplined n (k x)) :
    Disciplined n (operand o k) := by
  cases o with
  | none => exact .finish _
  | some x => exact h x

theorem disciplined_conversion {o : Option α} {k : α → Prog} (h : ∀ x, Disciplined n (k x)) :
    Disciplined n (conversion o k) := by
  cases o with
  | none => exact .finish _
  | some x => exact h x

theorem disciplined_busWrite1 {b : Byte} {k : Prog} (ok : RequestOk (.write1 b)) (h : Disciplined n k) :
    Disciplined (n + 1) (busWrite1 b k) :=
  .bus ok fun
    | .ok => h
    | .okByte _ => h
    | .err => .finish _

theorem disciplined_busWrite2 {c d : Byte} {k : Prog} (ok : RequestOk (.write2 c d)) (h : Disciplined n k) :
    Disciplined (n + 1) (busWrite2 c d k) :=
  .bus ok fun
    | .ok => h
    | .okByte _ => h
    | .err => .finish _

theorem disciplined_busRead1 {k : Byte → Prog} (h : ∀ b, Disciplined n (k b)) :
    Disciplined (n + 1) (busRead1 k) :=
  .bus trivial fun
    | .ok => .finish _
    | .okByte b => h b
    | .err => .finish _

theorem disciplined_busSleep {ms : Nat} {k : Prog} (ok : RequestOk (.sleep ms)) (h : Disciplined n k) :
    Disciplined (n + 1) (busSleep ms k) :=
  .bus ok fun _ => h

/-- One acquisition is five transactions (R171). -/
theorem disciplined_acquire {q : Quantity} {mode : Byte} {s : State} {k : Raw → Frame → Prog}
    (hm : argLegal .mode mode = true) (h : ∀ raw f, Disciplined n (k raw f)) :
    Disciplined (n + 5) (acquire q mode s k) := by
  refine disciplined_busWrite1 (requestOk_trigger q hm) (disciplined_busSleep (.inl rfl)
    (disciplined_busRead1 fun m => disciplined_busRead1 fun l => disciplined_busRead1 fun c => ?_))
  split
  · exact .finish _
  · exact h _ _

theorem disciplined_progSvp {t : Int} {k : Int → Prog} (h : ∀ p, Disciplined 0 (k p)) :
    Disciplined n (progSvp t k) := .draw fun _ => disciplined_conversion h

theorem disciplined_progDew {h p : Int} {k : Int → Prog} (hk : ∀ d, Disciplined 0 (k d)) :
    Disciplined n (progDew h p k) := .draw fun _ => disciplined_conversion hk

/-- Three acquisitions (R180, R185). -/
theorem disciplined_dewpoint {s : State} {k : Int → Frame → Prog} (h : ∀ d f, Disciplined 0 (k d f)) :
    Disciplined 15 (dewpoint s k) :=
  disciplined_acquire (modeByte_legal s) fun _ _ =>
    disciplined_acquire (modeByte_legal s) fun _ _ =>
      disciplined_acquire (modeByte_legal s) fun _ _ =>
        disciplined_conversion fun _ => disciplined_progSvp fun _ => disciplined_progDew fun _ => h _ _

theorem disciplined_regRead {k : Byte → Prog} (h : ∀ v, Disciplined n (k v)) :
    Disciplined (n + 2) (regRead k) :=
  disciplined_busWrite1 (show _ ∈ oneByteCommands by decide) (disciplined_busRead1 h)

theorem disciplined_regWrite {v : Byte} {k : Prog} (h : Disciplined n k) : Disciplined (n + 1) (regWrite v k) :=
  disciplined_busWrite2 rfl h

theorem disciplined_rmw (keep set : Byte) : Disciplined 3 (rmw keep set) :=
  disciplined_regRead fun _ => disciplined_regWrite (.finishOk _ _)

end Phrases

/-- Every command is disciplined, with the number of transactions of R303's table. -/
theorem commandProg_disciplined {i : Instr} {n : Nat} (s : State) (hn : transactionsOf i = some n) :
    ∃ p, commandProg s i = some p ∧ Disciplined n p := by
  cases i <;> simp only [transactionsOf, Option.some.injEq, reduceCtorEq] at hn <;> subst hn <;>
    refine ⟨_, rfl, disciplined_checkArg fun harg => ?_⟩
  case readConfig => exact disciplined_regRead fun _ => .finishOk _ _
  case writeConfig => exact disciplined_regWrite (.finishOk _ _)
  case setResolution => exact disciplined_rmw _ _
  case setHeater => exact disciplined_rmw _ _
  case setOtpReload => exact disciplined_rmw _ _
  case isBatteryLow => exact disciplined_regRead fun _ => .finishOk _ _
  case softReset =>
    exact disciplined_busWrite1 (show _ ∈ oneByteCommands by decide)
      (disciplined_busSleep (.inr rfl) (.finishOk _ _))
  case measureRawT => exact disciplined_acquire harg fun _ _ => .finishOk _ _
  case measureRawRh => exact disciplined_acquire harg fun _ _ => .finishOk _ _
  case getTemperatureC => exact disciplined_acquire (modeByte_legal s) fun _ _ => .finishOk _ _
  case getTemperatureF =>
    exact disciplined_acquire (modeByte_legal s) fun _ _ => disciplined_conversion fun _ => .finishOk _ _
  case getHumidity =>
    exact disciplined_acquire (modeByte_legal s) fun _ _ =>
      disciplined_acquire (modeByte_legal s) fun _ _ => disciplined_conversion fun _ => .finishOk _ _
  case getDewpointC => exact disciplined_dewpoint fun _ _ => .finishOk _ _
  case getDewpointF => exact disciplined_dewpoint fun _ _ => disciplined_conversion fun _ => .finishOk _ _
  case crcCheck => exact disciplined_operand fun _ => .finishOk _ _
  case convTempC => exact disciplined_operand fun _ => .finishOk _ _
  case convTempF => exact disciplined_conversion fun _ => .finishOk _ _
  case convHumRaw => exact disciplined_operand fun _ => .finishOk _ _
  case convHumComp => exact disciplined_conversion fun _ => .finishOk _ _
  case convSvp => exact disciplined_progSvp fun _ => .finishOk _ _
  case convDewC => exact disciplined_progDew fun _ => .finishOk _ _
  case convDewF => exact disciplined_conversion fun _ => .finishOk _ _

/-! ### What disciplined pseudocode does -/

/-- Each answer uses up one transaction. -/
theorem Disciplined.resume {n : Nat} {p : Prog} (h : Disciplined n p) (got : List Answer) :
    Disciplined (n - got.length) (p.resume got) := by
  induction h generalizing got with
  | @bus n op next ok rest ih =>
    cases got with
    | nil => exact .bus ok rest
    | cons a got =>
      rw [resume_bus, List.length_cons, Nat.add_sub_add_right]
      exact ih a got
  | draw rest => rw [resume_draw]; exact .draw rest
  | finish code => rw [resume_finish]; exact .finish code
  | finishOk r0 r1 => rw [resume_finishOk]; exact .finishOk r0 r1

/-- `t` is what ending the running command leaves of `s`, after some draws (R31, R254). -/
inductive Ends (s : State) : State → Prop
  | failed (code : ErrCode) (d : Nat) : Ends s (failed code { s with draws := d })
  | succeeded (r0 r1 : Word) (d : Nat) : Ends s (succeeded r0 r1 { s with draws := d })

/-- Running disciplined pseudocode asks for a transaction HTSC may make, if one is left, or ends the command. -/
theorem Disciplined.run {n : Nat} {p : Prog} (h : Disciplined n p) (s : State) :
    (n ≠ 0 ∧ ∃ op, RequestOk op ∧ p.run s = asking op s) ∨ Ends s (p.run s) := by
  induction h generalizing s with
  | @bus n op next ok _ _ => exact .inl ⟨n.succ_ne_zero, op, ok, rfl⟩
  | finish code => exact .inr (.failed code s.draws)
  | finishOk r0 r1 => exact .inr (.succeeded r0 r1 s.draws)
  | @draw n next rest ih =>
    right
    rcases ih (Config.roundUp s.draws) { s with draws := s.draws + 1 } with ⟨h0, -⟩ | hends
    · exact absurd rfl h0
    · rw [run_draw]
      generalize (next (Config.roundUp s.draws)).run _ = t at hends
      cases hends with
      | failed code d => exact .failed code d
      | succeeded r0 r1 d => exact .succeeded r0 r1 d

/-- A sequencer step of a command asks for a transaction HTSC may make, if the table's number is not yet answered, or
ends the command. -/
theorem exec_command_atStep {i : Instr} {n : Nat} {s : State} {got : List Answer}
    (hn : transactionsOf i = some n) (hs : AtStep s got) :
    (got.length < n ∧ ∃ op, RequestOk op ∧ exec i s = .next (asking op s)) ∨
      ∃ t, exec i s = .next t ∧ Ends s t := by
  obtain ⟨p, hp, hd⟩ := commandProg_disciplined s hn
  rw [exec_atStep hp hs]
  rcases (hd.resume got).run s with ⟨hleft, op, ok, hrun⟩ | hends
  · exact .inl ⟨by omega, op, ok, congrArg _ hrun⟩
  · exact .inr ⟨_, rfl, hends⟩

/-- A word decodes to commands only (R106). -/
theorem decodeCmd_transactions {w : Word} {i : Instr} (h : decodeCmd w = .ok i) :
    ∃ n, transactionsOf i = some n := by
  have hop : opcodeInstr (opcodeOf w) (argByteOf w) = some i := by
    unfold decodeCmd at h
    split at h
    · cases h
    · split at h
      · rw [← Except.ok.inj h]; assumption
      · cases h
  unfold opcodeInstr at hop
  split at hop <;> cases hop <;> exact ⟨_, rfl⟩

/-- A step of HTSC with no request in the port: it waits, or a running command issues a transaction HTSC may make, or
ends. -/
theorem htscStep_cases {s t : State} (driven : ∀ op, s.port ≠ .requested op) (h : htscStep s = .next t) :
    t = s ∨ ∃ got, AtStep s got ∧
      ((∃ op, RequestOk op ∧ t = issued (addressed s.devaddr op) s) ∨ Ends s t) := by
  unfold htscStep at h
  split at h
  case h_1 => exact .inl (Host.Outcome.next.inj h).symm
  case h_2 op hop => exact absurd hop (driven op)
  case h_3 hport =>
    split at h
    case h_1 => exact .inl (Host.Outcome.next.inj h).symm
    case h_2 got hseq =>
      refine .inr ⟨got, ⟨hseq, hport⟩, ?_⟩
      split at h
      case h_1 i hi =>
        obtain ⟨n, hn⟩ := decodeCmd_transactions hi
        rcases exec_command_atStep hn ⟨hseq, hport⟩ with ⟨-, op, ok, he⟩ | ⟨u, he, hu⟩
        · rw [he, thenDrive, ok.drive] at h
          exact .inl ⟨op, ok, (Host.Outcome.next.inj h).symm⟩
        · have quiet : ∀ op, u.port ≠ .requested op := by
            cases hu <;> exact driven
          rw [he, thenDrive, drivePort_quiet quiet] at h
          exact .inr (Host.Outcome.next.inj h ▸ hu)
      case h_2 =>
        exact .inr (Host.Outcome.next.inj h ▸ .failed .illegalCommand s.draws)

end Sys2Proof.Proofs
end


section
/-! SUPPORT and PROOFS. The invariant: what each agent's step does to it (O43, O44), and the position of a command (O46). -/

namespace Sys2Proof.Proofs

open Sys2Proof.Machine Sys2Proof.Safety

/-! ### What a step of the host does -/

theorem off_of_regAt_cmd {off : Nat} (h : regAt off = some .cmd) : off = 0x00 := by
  by_contra hoff
  unfold regAt at h
  rw [if_neg hoff] at h
  split_ifs at h <;> cases h

/-- Everything a host write can do: only CMD's offset starts or rejects a command (R61, R65). -/
theorem hostWrite_cases {a : Access} {v : Word} {s t : State} (h : hostWrite a v s = .next t) :
    (a.off = 0x00 ∧ t = writeCmd v s) ∨ t = { s with ctrl := v &&& ctrlMask } ∨ t = { s with opa := v } ∨
      t = { s with opb := v } ∨ t = { s with opc := v } ∨ t = s := by
  have ht : t = writeOff a.off v s := by
    unfold hostWrite at h
    split at h
    · exact (Host.Outcome.next.inj h).symm
    · cases h
  subst ht
  unfold writeOff
  split
  case h_2 => simp
  case h_1 r hr =>
    cases r <;> simp only [writeReg, true_or, or_true]
    case cmd => exact .inl ⟨off_of_regAt_cmd hr, trivial⟩

theorem hostRead_next {a : Access} {s t : State} (h : hostRead a s = .next t) :
    t = { s with rdata := readOff a.off s } := by
  unfold hostRead at h
  split at h
  · exact (Host.Outcome.next.inj h).symm
  · cases h

/-! ### The trace as a span -/

theorem spanOf_append (b : Span) (xs ys : List BusEvent) :
    spanOf b (xs ++ ys) = (spanOf b xs).bind (spanOf · ys) := by
  induction xs generalizing b with
  | nil => rfl
  | cons e xs ih =>
    rw [List.cons_append, spanOf, spanOf]
    cases spanStep b e with
    | none => rfl
    | some b' => exact ih b'

theorem traceOk_append {a : BusAddr} {xs ys : List BusEvent} :
    TraceOk a (xs ++ ys) ↔ TraceOk a xs ∧ TraceOk a ys := by
  simp only [TraceOk, List.mem_append, or_imp, forall_and]

theorem traceOk_singleton {a : BusAddr} {e : BusEvent} (h : ∀ t, e = .issue t → TxnOk a t) : TraceOk a [e] :=
  fun t ht => h t (List.mem_singleton.mp ht).symm

theorem spanNow_of_held {s : State} (held : s.busHeld = true) : spanNow s = .held ∨ spanNow s = .waiting := by
  unfold spanNow
  cases s.port <;> simp [held]

/-! ### The fields the invariant reads -/

/-- `s` with every field the invariant does not read set to a fixed value. -/
def invFields (s : State) : State :=
  { s with
    lCmd := 0, lOpa := 0, lOpb := 0, lOpc := 0, collision := false, opa := 0, opb := 0, opc := 0, res0 := 0,
    res1 := 0, inputs := [], rdata := 0, draws := 0 }

theorem inv_invFields {s : State} : Inv (invFields s) ↔ Inv s :=
  ⟨fun h => ⟨h.ctrl, h.lCtrl, h.busyRuns, h.busyClear, h.heldBusy, h.outstandingHeld, h.driven, h.span, h.txns⟩,
    fun h => ⟨h.ctrl, h.lCtrl, h.busyRuns, h.busyClear, h.heldBusy, h.outstandingHeld, h.driven, h.span, h.txns⟩⟩

/-- A change of the other fields keeps the invariant. -/
theorem inv_of_invFields {s t : State} (h : Inv s) (same : invFields t = invFields s) : Inv t :=
  inv_invFields.mp (same ▸ inv_invFields.mpr h)

/-! ### Each update keeps the invariant -/

section Updates

variable {s : State} (inv : Inv s)
include inv

theorem spanNow_of_free (free : s.busHeld = false) : spanNow s = .free := by
  unfold spanNow
  cases hport : s.port with
  | idle => simp [free]
  | requested op => simp [free]
  | outstanding t => exact absurd (inv.outstandingHeld t hport) (by simp [free])

/-- A RELEASE, if due, leaves the bus free, also after an unanswered transaction (R69, R291). -/
theorem span_released : spanOf .free (released s) = some .free := by
  unfold released
  split
  case isTrue held =>
    rw [spanOf_append, inv.span]
    rcases spanNow_of_held held with h | h <;> rw [h] <;> rfl
  case isFalse free => rw [inv.span, spanNow_of_free inv (by simpa using free)]

theorem traceOk_released : TraceOk s.devaddr (released s) := by
  unfold released
  split
  · exact traceOk_append.mpr ⟨inv.txns, traceOk_singleton nofun⟩
  · exact inv.txns

theorem inv_failed (code : ErrCode) (hport : s.port = .idle) : Inv (failed code s) where
  ctrl := inv.ctrl
  lCtrl := inv.lCtrl
  busyRuns := ⟨nofun, fun h => absurd rfl h⟩
  busyClear := nofun
  heldBusy := nofun
  outstandingHeld t ht := by cases hport.symm.trans ht
  driven := inv.driven
  span := by
    have free : spanNow (failed code s) = .free := by simp [spanNow, failed, hport]
    rw [free]
    exact span_released inv
  txns := show TraceOk s.devaddr (released s) from traceOk_released inv

theorem inv_ends {t : State} (hport : s.port = .idle) (h : Ends s t) : Inv t := by
  cases h with
  | failed code d => exact inv_of_invFields (inv_failed inv code hport) rfl
  | succeeded r0 r1 d => exact inv_of_invFields (inv_failed inv .none hport) rfl

/-- ACQUIRE comes first where the bus is free, so the transaction is inside the span (R69). -/
theorem inv_issued {op : BusOp} {got : List Answer} (ok : RequestOk op) (hs : AtStep s got) :
    Inv (issued (addressed s.devaddr op) s) where
  ctrl := inv.ctrl
  lCtrl := inv.lCtrl
  busyRuns := inv.busyRuns
  busyClear := inv.busyClear
  heldBusy _ := inv.busyRuns.mpr (by rw [hs.1]; nofun)
  outstandingHeld _ _ := rfl
  driven := nofun
  span := by
    have hspan : spanOf .free s.trace = some (if s.busHeld then .held else .free) := by
      simpa only [spanNow, hs.2] using inv.span
    show spanOf .free ((if s.busHeld then s.trace else s.trace ++ [.acquire]) ++ [.issue _]) = some .waiting
    split at hspan
    case isTrue held => simp [held, spanOf_append, hspan, spanOf, spanStep]
    case isFalse free => simp [free, spanOf_append, hspan, spanOf, spanStep]
  txns := by
    have hnew : TraceOk s.devaddr [.issue (addressed s.devaddr op)] :=
      traceOk_singleton fun t ht => BusEvent.issue.inj ht ▸ ok.txnOk s.devaddr
    refine traceOk_append.mpr ⟨?_, hnew⟩
    split
    · exact inv.txns
    · exact traceOk_append.mpr ⟨inv.txns, traceOk_singleton nofun⟩

theorem inv_htscStep {t : State} (h : htscStep s = .next t) : Inv t := by
  rcases htscStep_cases inv.driven h with rfl | ⟨got, hs, ⟨op, ok, rfl⟩ | hends⟩
  · exact inv
  · exact inv_issued inv ok hs
  · exact inv_ends inv hs.2 hends

/-- Acceptance touches neither the bus nor the port (R45). -/
theorem inv_accept (w : Word) : Inv (accept w s) where
  ctrl := inv.ctrl
  lCtrl := inv.ctrl
  busyRuns := ⟨fun _ => nofun, fun _ => rfl⟩
  busyClear _ := ⟨rfl, rfl⟩
  heldBusy _ := rfl
  outstandingHeld := inv.outstandingHeld
  driven := inv.driven
  span := inv.span
  txns := inv.txns

theorem inv_writeCmd (w : Word) : Inv (writeCmd w s) := by
  unfold writeCmd
  split
  · exact inv_of_invFields inv rfl
  · exact inv_accept inv w

theorem inv_writeCtrl (v : Word) : Inv { s with ctrl := v &&& ctrlMask } where
  ctrl := by
    show (v &&& 0x00000011#32) &&& ~~~0x00000011#32 = 0
    rw [BitVec.and_assoc]
    simp
  lCtrl := inv.lCtrl
  busyRuns := inv.busyRuns
  busyClear := inv.busyClear
  heldBusy := inv.heldBusy
  outstandingHeld := inv.outstandingHeld
  driven := inv.driven
  span := inv.span
  txns := inv.txns

theorem inv_hostWrite {a : Access} {v : Word} {t : State} (h : hostWrite a v s = .next t) : Inv t := by
  rcases hostWrite_cases h with ⟨-, rfl⟩ | rfl | rfl | rfl | rfl | rfl
  · exact inv_writeCmd inv v
  · exact inv_writeCtrl inv v
  · exact inv_of_invFields inv rfl
  · exact inv_of_invFields inv rfl
  · exact inv_of_invFields inv rfl
  · exact inv

/-- An answer closes the transaction inside the span, and stops no command. -/
theorem inv_answerTxn (e : Bool) (b : Byte) : Inv (answerTxn e b s) := by
  rcases answerTxn_cases e b s with ⟨x, hport, heq⟩ | ⟨-, heq⟩ <;> rw [heq]
  case inr => exact inv
  case inl =>
    have held := inv.outstandingHeld x hport
    have hrun : ∀ r, advanceSeq r s.seq ≠ .idle ↔ s.seq ≠ .idle := fun r => by cases s.seq <;> simp [advanceSeq]
    refine ⟨inv.ctrl, inv.lCtrl, inv.busyRuns.trans (hrun _).symm, inv.busyClear, inv.heldBusy, nofun, nofun, ?_,
      traceOk_append.mpr ⟨inv.txns, traceOk_singleton nofun⟩⟩
    have hspan := inv.span
    simp only [spanNow, hport] at hspan
    simp [spanOf_append, hspan, spanOf, spanStep, spanNow, held]

theorem inv_resetInput : Inv (resetInput s) where
  ctrl := by simp
  lCtrl := by simp
  busyRuns := ⟨nofun, fun h => absurd rfl h⟩
  busyClear := nofun
  heldBusy := nofun
  outstandingHeld := nofun
  driven := nofun
  span := span_released inv
  txns := show TraceOk s.devaddr (released s) from traceOk_released inv

end Updates

/-- Settles O43. -/
theorem invariantHoldsAtReset : Obligations.InvariantHoldsAtReset where
  ctrl := by simp [State.reset]
  lCtrl := by simp [State.reset]
  busyRuns := ⟨nofun, fun h => absurd rfl h⟩
  busyClear := nofun
  heldBusy := nofun
  outstandingHeld := nofun
  driven := nofun
  span := rfl
  txns := nofun

/-- Settles O44, by the input that lands: each agent's update keeps the invariant. -/
theorem everyStepKeepsTheInvariant : Obligations.EveryStepKeepsTheInvariant := by
  intro s t inv h
  have consumed : ∀ rest, Inv { s with inputs := rest } := fun rest => inv_of_invFields inv rfl
  rcases step_cases s with ⟨-, hstep⟩ | ⟨rest, ⟨-, hstep⟩ | ⟨a, -, hstep⟩ | ⟨a, v, -, hstep⟩ | ⟨e, b, -, hstep⟩ |
    ⟨-, hstep⟩⟩ <;> rw [hstep] at h
  · exact inv_htscStep inv h
  · exact inv_htscStep (consumed rest) h
  · obtain rfl := hostRead_next h
    exact inv_of_invFields (consumed rest) rfl
  · exact inv_hostWrite (consumed rest) h
  · exact Host.Outcome.next.inj h ▸ inv_answerTxn (consumed rest) e b
  · exact Host.Outcome.next.inj h ▸ inv_resetInput (consumed rest)

end Sys2Proof.Proofs
end


section
/-! SUPPORT and PROOFS. One step by the input that lands: HTSC's own step (O29, O30, O31, O33), an answer (O32), a host
access (O34, O35, O36); and the state after reset (O38). -/

namespace Sys2Proof.Proofs

open Sys2Proof.Machine Sys2Proof.Safety

/-! ### The step, by the next input -/

section Inputs

variable {s : State} {rest : List Input}

theorem step_nil (h : s.inputs = []) : step s = htscStep s := by simp [step, systemStep, h]

theorem step_tick (h : s.inputs = .tick :: rest) : step s = htscStep { s with inputs := rest } := by
  simp [step, systemStep, h]

theorem step_hostRead {a : Access} (h : s.inputs = .hostRead a :: rest) (ha : a.wellFormed = true) :
    step s = .next { s with inputs := rest, rdata := readOff a.off { s with inputs := rest } } := by
  simp [step, systemStep, h, hostRead, ha]

theorem step_hostWrite {a : Access} {v : Word} (h : s.inputs = .hostWrite a v :: rest) (ha : a.wellFormed = true) :
    step s = .next (writeOff a.off v { s with inputs := rest }) := by
  simp [step, systemStep, h, hostWrite, ha]

theorem step_answer {e : Bool} {b : Byte} (h : s.inputs = .answer e b :: rest) :
    step s = .next (answerTxn e b { s with inputs := rest }) := by
  simp [step, systemStep, h]

end Inputs

/-! ### HTSC's own step, by the port -/

theorem htscStep_outstanding {s : State} {t : Txn} (h : s.port = .outstanding t) : htscStep s = .next s := by
  simp [htscStep, h]

theorem htscStep_requested {s : State} {op : BusOp} (h : s.port = .requested op) : htscStep s = drivePort s := by
  simp [htscStep, h]

theorem htscStep_command {s : State} {got : List Answer} {i : Instr} (hs : AtStep s got)
    (hi : decodeCmd s.lCmd = .ok i) : htscStep s = thenDrive (exec i s) := by
  simp [htscStep, hs.1, hs.2, hi]

/-- The port executes the wire command its bytes decode to. -/
theorem drivePort_decoded {s : State} {op : BusOp} {bytes : List Byte} {i : Instr} (h : s.port = .requested op)
    (hb : wireBytesOf op = some bytes) (hi : decode (.wire bytes) = .ok i) : drivePort s = exec i s := by
  simp [drivePort, h, hb, hi]

/-- Settles O29. -/
theorem stepRunsTheDecodedCommand : Obligations.StepRunsTheDecodedCommand := by
  intro s got i hs hi
  exact ⟨fun hin => (step_nil hin).trans (htscStep_command hs hi),
    fun rest hin => (step_tick hin).trans (htscStep_command (got := got) hs hi), fun t ht => drivePort_quiet ht⟩

/-- Settles O30. -/
theorem stepRunsTheRequestedWireCommand : Obligations.StepRunsTheRequestedWireCommand := by
  intro s op bytes i hport hb hi
  have driven : ∀ s' : State, s'.port = .requested op → htscStep s' = exec i s' := fun s' hport' =>
    (htscStep_requested hport').trans (drivePort_decoded hport' hb hi)
  exact ⟨fun hin => (step_nil hin).trans (driven s hport), fun rest hin => (step_tick hin).trans (driven _ hport),
    drivePort_decoded hport hb hi⟩

/-- Settles O31: the port drives the request in the step in which `exec` hands it over. -/
theorem transactionsAreIssuedInTheAskingStep : Obligations.TransactionsAreIssuedInTheAskingStep := by
  intro s got i op hs hin hi hask
  have drive : step s = drivePort (asking op s) := by
    rw [step_nil hin, htscStep_command hs hi, hask, thenDrive]
  refine ⟨?_, ?_, ?_, ?_⟩
  · rintro b rfl hb
    exact drive.trans (drivePort_asking (.inl ⟨b, hb, rfl⟩))
  · rintro d rfl
    exact drive.trans (drivePort_asking (.inr (.inl ⟨d, rfl⟩)))
  · rintro rfl
    exact drive.trans (drivePort_asking (.inr (.inr (.inl rfl))))
  · rintro ms rfl
    exact drive.trans (drivePort_asking (.inr (.inr (.inr ⟨ms, rfl⟩))))

/-! ### Answers -/

/-- An answer ends the outstanding transaction and moves the running command past it (R41, R67). -/
theorem step_answer_outstanding {s : State} {e : Bool} {b : Byte} {rest : List Input} {got : List Answer} {t : Txn}
    (hin : s.inputs = .answer e b :: rest) (hseq : s.seq = .run got) (hport : s.port = .outstanding t) :
    step s = .next { s with
      inputs := rest, port := .idle
      trace := s.trace ++ [.answer (responseOf t e b)]
      seq := .run (got ++ [responseOf t e b]) } := by
  rw [step_answer hin]
  simp [answerTxn, hport, hseq, advanceSeq]

/-- Settles O32. -/
theorem answersAdvanceTheCommand : Obligations.AnswersAdvanceTheCommand := by
  intro s e b rest got hin hseq
  refine ⟨fun a c hport => step_answer_outstanding hin hseq hport,
    fun a c d hport => step_answer_outstanding hin hseq hport,
    fun a hport => step_answer_outstanding hin hseq hport,
    fun ms hport => step_answer_outstanding hin hseq hport, fun free => ?_⟩
  rw [step_answer hin]
  rcases answerTxn_cases e b { s with inputs := rest } with ⟨t, ht, -⟩ | ⟨-, heq⟩
  · exact absurd ht (free t)
  · rw [heq]

/-! ### The CMD register -/

/-- R46: the only effect of a CMD write while BUSY = 1. -/
theorem step_cmdWrite_busy {s : State} {w : Word} {rest : List Input} (busy : s.busy = true)
    (hin : s.inputs = .hostWrite (regAccess .cmd) w :: rest) :
    step s = .next { s with inputs := rest, collision := true } := by
  rw [step_hostWrite hin rfl]
  exact congrArg Host.Outcome.next (if_pos busy)

/-- R45: acceptance. -/
theorem step_cmdWrite_idle {s : State} {w : Word} {rest : List Input} (idle : s.busy = false)
    (hin : s.inputs = .hostWrite (regAccess .cmd) w :: rest) :
    step s = .next { afterAccept w s with inputs := rest } := by
  rw [step_hostWrite hin rfl]
  exact congrArg Host.Outcome.next (if_neg (by simp [idle]))

/-- Settles O33. -/
theorem unansweredTransactionKeepsWaiting : Obligations.UnansweredTransactionKeepsWaiting := by
  intro s t hport
  exact ⟨fun hin => (step_nil hin).trans (htscStep_outstanding hport),
    fun rest hin => (step_tick hin).trans (htscStep_outstanding (t := t) hport),
    fun w rest busy hin => step_cmdWrite_busy busy hin⟩

/-- Settles O34. -/
theorem cmdWriteIsAcceptedOrRejected : Obligations.CmdWriteIsAcceptedOrRejected :=
  fun _ _ _ hin => ⟨fun idle => step_cmdWrite_idle idle hin, fun busy => step_cmdWrite_busy busy hin⟩

/-! ### The other registers -/

/-- STATUS bit by bit (R22). -/
theorem statusWord_getLsbD (s : State) (k : Nat) :
    (statusWord s).getLsbD k =
      match k with
      | 0 => s.busy
      | 1 => s.done
      | 2 => s.collision
      | 3 => false
      | k + 4 => if k < 3 then (errBits s.err).getLsbD k else false := by
  show (0#25 ++ errBits s.err ++ 0#1 ++ BitVec.ofBool s.collision ++ BitVec.ofBool s.done ++
    BitVec.ofBool s.busy : BitVec (25 + 3 + 1 + 1 + 1 + 1)).getLsbD k = _
  simp only [BitVec.getLsbD_append]
  rcases k with _ | _ | _ | _ | k <;> simp

/-- The fields of STATUS as a host reads them (R22). -/
theorem statusWord_fields (s : State) :
    (statusWord s).getLsbD 0 = s.busy ∧ (statusWord s).getLsbD 1 = s.done ∧
      (statusWord s).getLsbD 2 = s.collision ∧ (statusWord s).getLsbD 3 = false ∧
      (statusWord s).extractLsb' 4 3 = errBits s.err ∧ (statusWord s).extractLsb' 7 25 = 0 := by
  refine ⟨statusWord_getLsbD s 0, statusWord_getLsbD s 1, statusWord_getLsbD s 2, statusWord_getLsbD s 3, ?_, ?_⟩
  · ext i hi
    rw [BitVec.getElem_extractLsb', Nat.add_comm, statusWord_getLsbD]
    simp [hi]
  · ext i hi
    have pos : 7 + i = i + 3 + 4 := by omega
    rw [BitVec.getElem_extractLsb', pos, statusWord_getLsbD]
    simp

/-- Settles O35. -/
theorem hostReadsReturnTheRegister : Obligations.HostReadsReturnTheRegister := by
  intro s a rest ha hin
  refine ⟨_, step_hostRead hin ha, ?_⟩
  generalize a.off = off
  refine ⟨?_, ?_, ?_, ?_, ?_, ?_, ?_, ?_, ?_, ?_⟩
  case refine_2 =>
    rintro rfl
    exact statusWord_fields s
  case refine_10 =>
    intro hoff
    fin_cases hoff <;> rfl
  all_goals
    rintro rfl
    rfl

/-- Settles O36. -/
theorem hostWritesStoreOrAreIgnored : Obligations.HostWritesStoreOrAreIgnored := by
  intro s a v rest ha hin
  rw [step_hostWrite hin ha]
  generalize a.off = off
  refine ⟨?_, ?_, ?_, ?_, ?_⟩
  case refine_5 =>
    intro hoff
    fin_cases hoff <;> rfl
  all_goals
    rintro rfl
    rfl

/-- Settles O38: each register's reset value is a literal of `State.reset`. -/
theorem resetLeavesTheSpecsValues : Obligations.ResetLeavesTheSpecsValues :=
  ⟨rfl, rfl, rfl, rfl, rfl, rfl, rfl, rfl, rfl, rfl, rfl, rfl, rfl, rfl, rfl, rfl⟩

end Sys2Proof.Proofs
end


section
/-! SUPPORT and PROOFS. What every instruction does: its frame (O40), what it reads (O41), and when a command ends (O42);
and two consequences for every step (O46, O47). -/

namespace Sys2Proof.Proofs

open Sys2Proof.Machine Sys2Proof.Safety

/-! ### The frame of an instruction -/

/-- Everything an instruction can do, in any state: nothing, a sequencer step of its command, or the issue of its wire
transaction. -/
theorem exec_cases {i : Instr} {s t : State} (h : exec i s = .next t) :
    t = s ∨ (∃ got p, AtStep s got ∧ t = Prog.run p s) ∨ ∃ op, t = issue op s := by
  rcases command_or_wire i s with ⟨p, hp, -⟩ | ⟨op, hop, -⟩
  · obtain rfl := Host.Outcome.next.inj ((exec_command hp).symm.trans h)
    rcases sequence_cases p s with hseq | ⟨got, hs, hseq⟩ <;> rw [hseq]
    · exact .inl rfl
    · exact .inr (.inl ⟨got, _, hs, rfl⟩)
  · obtain rfl := Host.Outcome.next.inj ((exec_wire s hop).symm.trans h)
    unfold transmit
    split
    · exact .inl rfl
    · exact .inr (.inr ⟨op, rfl⟩)
    · exact .inr (.inr ⟨op, rfl⟩)

theorem trace_prefix_released (s : State) : s.trace <+: released s := by
  unfold released
  split
  · exact List.prefix_append _ _
  · exact List.prefix_rfl

theorem trace_prefix_issue (op : BusOp) (s : State) : s.trace <+: (issue op s).trace := by
  rw [issue_trace]
  split
  · exact List.prefix_append _ _
  · rw [List.append_assoc]
    exact List.prefix_append _ _

/-- What an instruction leaves alone (R25, R31, R32, R40, R250). -/
structure ExecFrame (s t : State) : Prop where
  registers : t.devaddr = s.devaddr ∧ t.lCmd = s.lCmd ∧ t.lCtrl = s.lCtrl ∧ t.lOpa = s.lOpa ∧ t.lOpb = s.lOpb ∧
    t.lOpc = s.lOpc ∧ t.ctrl = s.ctrl ∧ t.opa = s.opa ∧ t.opb = s.opb ∧ t.opc = s.opc ∧
    t.collision = s.collision ∧ t.inputs = s.inputs ∧ t.rdata = s.rdata
  results : t.res0 ≠ s.res0 ∨ t.res1 ≠ s.res1 →
    s.seq ≠ .idle ∧ t.seq = .idle ∧ t.err = .none ∧ t.busy = false ∧ t.done = true ∧ t.busHeld = false
  trace : s.trace <+: t.trace

/-- With RES0 and RES1 unchanged, nothing is due about the command's end. -/
theorem results_kept {s t : State} {P : Prop} (h0 : t.res0 = s.res0) (h1 : t.res1 = s.res1) :
    t.res0 ≠ s.res0 ∨ t.res1 ≠ s.res1 → P :=
  fun h => h.elim (absurd h0) (absurd h1)

theorem frame_refl (s : State) : ExecFrame s s :=
  ⟨by simp, results_kept rfl rfl, List.prefix_rfl⟩

theorem frame_issue (op : BusOp) (s : State) : ExecFrame s (issue op s) :=
  ⟨by simp, results_kept rfl rfl, trace_prefix_issue op s⟩

/-- Only success changes RES0 and RES1, and it ends the command (R31). -/
theorem frame_run (p : Prog) {s : State} {got : List Answer} (hs : AtStep s got) : ExecFrame s (p.run s) := by
  obtain ⟨d, ⟨op, h⟩ | ⟨code, h⟩ | ⟨r0, r1, h⟩ | h⟩ := run_cases p s <;> rw [h]
  · exact ⟨by simp [asking], results_kept rfl rfl, List.prefix_rfl⟩
  · exact ⟨by simp [failed], results_kept rfl rfl, trace_prefix_released s⟩
  · exact ⟨by simp [succeeded], fun _ => ⟨by simp [hs.1], rfl, rfl, rfl, rfl, rfl⟩, trace_prefix_released s⟩
  · exact ⟨by simp, results_kept rfl rfl, List.prefix_rfl⟩

theorem exec_frame {i : Instr} {s t : State} (h : exec i s = .next t) : ExecFrame s t := by
  rcases exec_cases h with rfl | ⟨got, p, hs, rfl⟩ | ⟨op, rfl⟩
  · exact frame_refl t
  · exact frame_run p hs
  · exact frame_issue op s

/-- Settles O40. -/
theorem noInstructionChangesTheOtherRegisters : Obligations.NoInstructionChangesTheOtherRegisters := by
  intro i s t h
  obtain ⟨registers, results, trace⟩ := exec_frame h
  exact ⟨registers, results, trace⟩

/-! ### Isolation from CTRL and the operand registers -/

/-- `s` with other values in CTRL, OPA, OPB and OPC. -/
def withRegs (c a b d : Word) (s : State) : State := { s with ctrl := c, opa := a, opb := b, opc := d }

section Isolation

variable (c a b d : Word)

theorem run_withRegs (p : Prog) (s : State) : p.run (withRegs c a b d s) = withRegs c a b d (p.run s) := by
  induction p generalizing s with
  | bus op next _ => rfl
  | finish code => rfl
  | finishOk r0 r1 => rfl
  | draw next ih =>
    rw [run_draw, run_draw]
    exact congrArg (fun t : State => { t with port := s.port })
      (ih (Config.roundUp s.draws) { s with draws := s.draws + 1 })

/-- Away from a position of a running command, the sequencer takes no step (R41). -/
theorem sequence_waits (p : Prog) {s : State} (h : ∀ got, ¬ AtStep s got) : sequence p s = s := by
  rcases sequence_cases p s with heq | ⟨got, hs, -⟩
  · exact heq
  · exact absurd hs (h got)

theorem sequence_withRegs (p : Prog) (s : State) :
    sequence p (withRegs c a b d s) = withRegs c a b d (sequence p s) := by
  by_cases h : ∃ got, AtStep s got
  · obtain ⟨got, hs⟩ := h
    rw [sequence_atStep p hs, sequence_atStep (s := withRegs c a b d s) p hs]
    exact run_withRegs c a b d _ s
  · rw [not_exists] at h
    rw [sequence_waits p h, sequence_waits (s := withRegs c a b d s) p h]

theorem transmit_withRegs (op : BusOp) (s : State) :
    transmit op (withRegs c a b d s) = withRegs c a b d (transmit op s) := by
  cases hport : s.port <;> simp [transmit, withRegs, hport] <;> rfl

/-- The pseudocode is a function of the latches alone (R40, R298). -/
theorem commandProg_withRegs (i : Instr) (s : State) : commandProg (withRegs c a b d s) i = commandProg s i := by
  cases i <;> rfl

theorem exec_withRegs {i : Instr} {s t : State} (h : exec i s = .next t) :
    exec i (withRegs c a b d s) = .next (withRegs c a b d t) := by
  rcases command_or_wire i s with ⟨p, hp, -⟩ | ⟨op, hop, -⟩
  · obtain rfl := Host.Outcome.next.inj ((exec_command hp).symm.trans h)
    rw [exec_command ((commandProg_withRegs c a b d i s).trans hp), sequence_withRegs]
  · obtain rfl := Host.Outcome.next.inj ((exec_wire s hop).symm.trans h)
    rw [exec_wire _ hop, transmit_withRegs]

end Isolation

/-- Settles O41. -/
theorem commandsReadOnlyTheirLatches : Obligations.CommandsReadOnlyTheirLatches :=
  fun _ _ _ c a b d h => exec_withRegs c a b d h

/-! ### The end of a command -/

theorem ends_status {s t : State} (h : Ends s t) : t.seq = .idle ∧ t.busy = false ∧ t.done = true := by
  cases h <;> exact ⟨rfl, rfl, rfl⟩

/-- Settles O42: once the table's number is answered, the disciplined pseudocode has no transaction left. -/
theorem commandsEndWithinTheirTransactionCount : Obligations.CommandsEndWithinTheirTransactionCount := by
  intro i n s got hn hs hlen
  rcases exec_command_atStep hn hs with ⟨hlt, -⟩ | ⟨t, he, hends⟩
  · omega
  · exact ⟨t, he, ends_status hends⟩

/-! ### The position of a command -/

/-- Only acceptance starts the sequencer at its first position, and it needs BUSY = 0. -/
theorem hostWrite_seq {a : Access} {v : Word} {s t : State} (busy : s.busy = true) (h : hostWrite a v s = .next t) :
    t.seq = s.seq := by
  rcases hostWrite_cases h with ⟨-, rfl⟩ | rfl | rfl | rfl | rfl | rfl
  case inl => simp [writeCmd, busy]
  all_goals rfl

theorem htscStep_seq {s t : State} {got : List Answer} (driven : ∀ op, s.port ≠ .requested op)
    (hseq : s.seq = .run got) (h : htscStep s = .next t) : t.seq = .idle ∨ t.seq = .run got := by
  rcases htscStep_cases driven h with rfl | ⟨-, -, ⟨op, -, rfl⟩ | hends⟩
  · exact .inr hseq
  · exact .inr hseq
  · exact .inl (ends_status hends).1

theorem answerTxn_seq {e : Bool} {b : Byte} {s : State} {got : List Answer} (hseq : s.seq = .run got) :
    (answerTxn e b s).seq = .run got ∨ ∃ r, (answerTxn e b s).seq = .run (got ++ [r]) := by
  rcases answerTxn_cases e b s with ⟨t, -, heq⟩ | ⟨-, heq⟩ <;> rw [heq]
  · exact .inr ⟨responseOf t e b, by simp [hseq, advanceSeq]⟩
  · exact .inl hseq

/-- Settles O46. -/
theorem stepPointerMovesForward : Obligations.StepPointerMovesForward := by
  intro s t got inv hseq h
  have busy : s.busy = true := inv.busyRuns.mpr (by simp [hseq])
  have own : ∀ rest, htscStep { s with inputs := rest } = .next t → t.seq = .idle ∨ t.seq = .run got :=
    fun rest => htscStep_seq (s := { s with inputs := rest }) inv.driven hseq
  rcases step_cases s with ⟨-, hstep⟩ | ⟨rest, ⟨-, hstep⟩ | ⟨a, -, hstep⟩ | ⟨a, v, -, hstep⟩ | ⟨e, b, -, hstep⟩ |
    ⟨-, hstep⟩⟩ <;> rw [hstep] at h
  · exact (own s.inputs h).imp_right .inl
  · exact (own rest h).imp_right .inl
  · obtain rfl := hostRead_next h
    exact .inr (.inl hseq)
  · exact .inr (.inl ((hostWrite_seq (s := { s with inputs := rest }) busy h).trans hseq))
  · obtain rfl := Host.Outcome.next.inj h
    exact .inr (answerTxn_seq (s := { s with inputs := rest }) hseq)
  · obtain rfl := Host.Outcome.next.inj h
    exact .inl rfl

/-! ### COLLISION -/

theorem exec_collision {i : Instr} {s t : State} (h : exec i s = .next t) : t.collision = s.collision := by
  obtain ⟨-, -, -, -, -, -, -, -, -, -, hcollision, -, -⟩ := (exec_frame h).registers
  exact hcollision

theorem drivePort_collision {s t : State} (h : drivePort s = .next t) : t.collision = s.collision := by
  unfold drivePort at h
  split at h
  · exact Host.Outcome.next.inj h ▸ rfl
  · exact Host.Outcome.next.inj h ▸ rfl
  · split at h
    · exact Host.Outcome.next.inj h ▸ rfl
    · split at h
      · exact exec_collision h
      · cases h

theorem thenDrive_collision {i : Instr} {s t : State} (h : thenDrive (exec i s) = .next t) :
    t.collision = s.collision := by
  cases he : exec i s with
  | next u =>
    rw [he] at h
    exact (drivePort_collision h).trans (exec_collision he)
  | fault r => rw [he] at h; cases h
  | refused r => rw [he] at h; cases h

/-- HTSC's own step never touches COLLISION, in any state. -/
theorem htscStep_collision {s t : State} (h : htscStep s = .next t) : t.collision = s.collision := by
  unfold htscStep at h
  split at h
  · exact Host.Outcome.next.inj h ▸ rfl
  · exact drivePort_collision h
  · split at h
    · exact Host.Outcome.next.inj h ▸ rfl
    · split at h
      · exact thenDrive_collision h
      · exact Host.Outcome.next.inj h ▸ rfl

theorem answerTxn_collision (e : Bool) (b : Byte) (s : State) : (answerTxn e b s).collision = s.collision := by
  rcases answerTxn_cases e b s with ⟨t, -, heq⟩ | ⟨-, heq⟩ <;> rw [heq]

/-- A host write that changes COLLISION is a CMD write: rejected if it sets it, accepted if it clears it (R45, R46). -/
theorem hostWrite_collision {a : Access} {v : Word} {s t : State} (h : hostWrite a v s = .next t)
    (changed : t.collision ≠ s.collision) :
    a.off = 0x00 ∧ (t.collision = true ∧ s.busy = true ∨ t.collision = false ∧ s.busy = false) := by
  rcases hostWrite_cases h with ⟨hoff, rfl⟩ | rfl | rfl | rfl | rfl | rfl
  case inl => cases busy : s.busy <;> simp [writeCmd, busy, hoff]
  all_goals exact absurd rfl changed

/-- Settles O47. -/
theorem onlyCmdWritesAndResetChangeCollision : Obligations.OnlyCmdWritesAndResetChangeCollision := by
  intro s t h changed
  rcases step_cases s with ⟨-, hstep⟩ | ⟨rest, ⟨-, hstep⟩ | ⟨a, -, hstep⟩ | ⟨a, v, hin, hstep⟩ | ⟨e, b, -, hstep⟩ |
    ⟨hin, hstep⟩⟩ <;> rw [hstep] at h
  · exact absurd (htscStep_collision h) changed
  · exact absurd (htscStep_collision h) changed
  · obtain rfl := hostRead_next h
    exact absurd rfl changed
  · rcases hostWrite_collision h changed with ⟨hoff, ⟨hset, busy⟩ | ⟨hclear, idle⟩⟩
    · exact .inl ⟨hset, busy, a, v, rest, hin, hoff⟩
    · exact .inr ⟨hclear, .inl ⟨idle, a, v, rest, hin, hoff⟩⟩
  · obtain rfl := Host.Outcome.next.inj h
    exact absurd (answerTxn_collision e b _) changed
  · obtain rfl := Host.Outcome.next.inj h
    exact .inr ⟨rfl, .inr ⟨rest, hin⟩⟩

end Sys2Proof.Proofs
end


section
/-! SUPPORT and PROOFS. Whole commands, from the CMD write to the end (O48, O49): acceptance, one exchange with the
transport per transaction, and the last sequencer step. -/

namespace Sys2Proof.Proofs

open Sys2Proof.Machine Sys2Proof.Safety

theorem run_succ {M : Host.Core} {k : Nat} {s t : M.State} (h : M.step s = .next t) :
    M.run (k + 1) s = M.run k t := by rw [Host.Core.run, h]

/-- `k` steps lead from `s` to `t`. -/
def Reaches (k : Nat) (s t : State) : Prop := Host.Core.run core k s = .next t

theorem reaches_zero (s : State) : Reaches 0 s s := rfl

theorem reaches_step {k : Nat} {s t u : State} (h : step s = .next t) (hrest : Reaches k t u) :
    Reaches (k + 1) s u := (run_succ (M := core) h).trans hrest

/-! ### HTSC's own step in a command -/

section Commands

variable {s u : State} {i : Instr} {p : Prog} {got : List Answer} {rest : List Input}

/-- The pseudocode does not read the inputs. -/
theorem commandProg_inputs (i : Instr) (s : State) (rest : List Input) :
    commandProg { s with inputs := rest } i = commandProg s i := by
  cases i <;> rfl

/-- A running command before a transaction issues it. -/
theorem htscStep_asks {op : BusOp} {next : Answer → Prog} (hs : AtStep s got) (hi : decodeCmd s.lCmd = .ok i)
    (hp : commandProg s i = some p) (hr : p.resume got = .bus op next) (ok : RequestOk op) :
    htscStep s = .next (issued (addressed s.devaddr op) s) := by
  rw [htscStep_command hs hi, exec_atStep hp hs, hr, run_bus, thenDrive, ok.drive]

/-- A running command at its successful end ends. -/
theorem htscStep_success {r0 r1 : Word} (hs : AtStep s got) (hi : decodeCmd s.lCmd = .ok i)
    (hp : commandProg s i = some p) (hr : p.resume got = .finishOk r0 r1) :
    htscStep s = .next (succeeded r0 r1 s) := by
  have quiet : ∀ op, (succeeded r0 r1 s).port ≠ .requested op := fun op h => by cases hs.2.symm.trans h
  rw [htscStep_command hs hi, exec_atStep hp hs, hr, run_finishOk, thenDrive, drivePort_quiet quiet]

end Commands

/-! ### One exchange with the transport, and the end -/

/-- The state of the command `w`, accepted in `s`, at a position: the bus held or not, the trace so far, the answers had
and the inputs left (R41, R45). -/
def during (w : Word) (s : State) (held : Bool) (trace : List BusEvent) (got : List Answer) (rest : List Input) :
    State :=
  { afterAccept w s with busHeld := held, port := .idle, trace := trace, seq := .run got, inputs := rest }

section Commands

variable {s u : State} {w : Word} {i : Instr} {p : Prog} {held : Bool} {trace : List BusEvent} {got : List Answer}
  {rest : List Input}

theorem reaches_accept (idle : s.busy = false) (hport : s.port = .idle) (free : s.busHeld = false)
    (hin : s.inputs = .hostWrite (regAccess .cmd) w :: rest) {k : Nat}
    (hrest : Reaches k (during w s false s.trace [] rest) u) : Reaches (k + 1) s u := by
  refine reaches_step (step_cmdWrite_idle idle hin) ?_
  simpa only [during, afterAccept, hport, free] using hrest

theorem reaches_exchange (op : BusOp) {next : Answer → Prog} {e : Bool} {b : Byte}
    (hi : decodeCmd w = .ok i) (ok : RequestOk op)
    (hp : commandProg (during w s held trace got (.tick :: .answer e b :: rest)) i = some p)
    (hr : p.resume got = .bus op next) {k : Nat}
    (hrest : Reaches k (during w s true
      ((if held then trace else trace ++ [.acquire]) ++ [.issue (addressed s.devaddr op)] ++
        [.answer (responseOf (addressed s.devaddr op) e b)])
      (got ++ [responseOf (addressed s.devaddr op) e b]) rest) u) :
    Reaches (k + 2) (during w s held trace got (.tick :: .answer e b :: rest)) u :=
  reaches_step ((step_tick rfl).trans
      (htscStep_asks (got := got) ⟨rfl, rfl⟩ hi ((commandProg_inputs i _ _).trans hp) hr ok))
    (reaches_step (step_answer_outstanding (got := got) rfl rfl rfl) hrest)

/-- The first transaction takes the bus (R69). -/
theorem reaches_first (op : BusOp) {next : Answer → Prog} {e : Bool} {b : Byte} (hi : decodeCmd w = .ok i)
    (ok : RequestOk op) (hp : commandProg (during w s false trace got (.tick :: .answer e b :: rest)) i = some p)
    (hr : p.resume got = .bus op next) {k : Nat}
    (hrest : Reaches k (during w s true
      (trace ++ [.acquire, .issue (addressed s.devaddr op), .answer (responseOf (addressed s.devaddr op) e b)])
      (got ++ [responseOf (addressed s.devaddr op) e b]) rest) u) :
    Reaches (k + 2) (during w s false trace got (.tick :: .answer e b :: rest)) u :=
  reaches_exchange op hi ok hp hr (by simpa using hrest)

/-- A later one finds it held (R69). -/
theorem reaches_next (op : BusOp) {next : Answer → Prog} {e : Bool} {b : Byte} (hi : decodeCmd w = .ok i)
    (ok : RequestOk op) (hp : commandProg (during w s true trace got (.tick :: .answer e b :: rest)) i = some p)
    (hr : p.resume got = .bus op next) {k : Nat}
    (hrest : Reaches k (during w s true
      (trace ++ [.issue (addressed s.devaddr op), .answer (responseOf (addressed s.devaddr op) e b)])
      (got ++ [responseOf (addressed s.devaddr op) e b]) rest) u) :
    Reaches (k + 2) (during w s true trace got (.tick :: .answer e b :: rest)) u :=
  reaches_exchange op hi ok hp hr (by simpa using hrest)

theorem reaches_success {r0 r1 : Word} (hi : decodeCmd w = .ok i)
    (hp : commandProg (during w s held trace got (.tick :: rest)) i = some p)
    (hr : p.resume got = .finishOk r0 r1) :
    Reaches 1 (during w s held trace got (.tick :: rest)) (succeeded r0 r1 (during w s held trace got rest)) :=
  reaches_step ((step_tick rfl).trans
      (htscStep_success (got := got) ⟨rfl, rfl⟩ hi ((commandProg_inputs i _ _).trans hp) hr))
    (reaches_zero _)

/-- What a successful end leaves of the state in which the command was accepted (R31, R69). -/
theorem succeeded_during (r0 r1 : Word) (idle : s.busy = false) (hport : s.port = .idle) (free : s.busHeld = false) :
    succeeded r0 r1 (during w s true trace got rest) =
      { s with
        lCmd := w, lCtrl := s.ctrl, lOpa := s.opa, lOpb := s.opb, lOpc := s.opc,
        done := true, collision := false, err := .none, seq := .idle, res0 := r0, res1 := r1,
        trace := trace ++ [.release], inputs := rest } := by
  simp [succeeded, released, during, afterAccept, idle, hport, free]

end Commands

/-! ### SET_RESOLUTION -/

/-- Settles O48: acceptance, the three exchanges of the read-modify-write, and success. -/
theorem setResolutionWholeRun : Obligations.SetResolutionWholeRun := by
  intro s r old b1 b3 rest hr idle hport free hin
  have hdec : decodeCmd (0x00000300 ||| r.setWidth 32) = .ok (.setResolution r) := by
    rcases hr with rfl | rfl | rfl | rfl <;> rfl
  have hprog : ∀ s' : State, commandProg s' (.setResolution r) = some (rmw resKeep r) := fun s' =>
    congrArg some (checkArg_legal _ (by simpa [argLegal, or_assoc] using hr))
  have hrun := reaches_accept idle hport free hin <|
    reaches_first (.write1 0xE7) hdec (show _ ∈ oneByteCommands by decide) (hprog _) rfl <|
    reaches_next .read1 hdec trivial (hprog _) rfl <|
    reaches_next (.write2 0xE6 ((old &&& 0x7E) ||| r)) hdec rfl (hprog _) rfl <|
    reaches_success hdec (hprog _) rfl
  refine hrun.trans (congrArg Host.Outcome.next ?_)
  simp only [succeeded_during _ _ idle hport free, List.append_assoc, List.cons_append, List.nil_append]
  rfl

/-! ### GET_TEMPERATURE_C -/

/-- With NOHOLD clear in the latch, the mode byte is hold's (R29). -/
theorem modeByte_hold {s : State} (h : s.lCtrl.getLsbD 4 = false) : modeByte s = 0x00 := by
  rcases modeByte_cases s with h0 | h1
  · exact h0
  · have hbit : (modeByte s).getLsbD 4 = s.lCtrl.getLsbD 4 := by simp [modeByte]
    rw [h1, h] at hbit
    exact absurd hbit (by decide)

/-- The pseudocode in hold mode (R177). -/
theorem getTemperatureC_hold {s : State} (h : s.lCtrl.getLsbD 4 = false) :
    getTemperatureC 0 s = acquire .t 0x00 s fun rt fr => .finishOk (intWord (tempC rt)) (frameWord fr) := by
  rw [getTemperatureC, checkArg_legal _ rfl, modeByte_hold h]

theorem accepted_of_crc {s : State} {f : Frame} (h : crcEnabled s = true → crcRem f = 0) : accepted s f = true := by
  cases hen : crcEnabled s with
  | false => simp [accepted, hen]
  | true => simp [accepted, h hen]

/-- Settles O49: acceptance, the five exchanges of one acquisition, and success. -/
theorem getTemperatureCWholeRun : Obligations.GetTemperatureCWholeRun := by
  intro s f b1 b2 rest idle hport free hold hcrc hin
  have hdec : decodeCmd 0x00001200 = .ok (.getTemperatureC 0) := rfl
  have hprog : ∀ s' : State, s'.lCtrl = s.ctrl → commandProg s' (.getTemperatureC 0) =
      some (acquire .t 0x00 s' fun rt fr => .finishOk (intWord (tempC rt)) (frameWord fr)) := fun s' hctrl =>
    congrArg some (getTemperatureC_hold (hctrl ▸ hold))
  have hrun := reaches_accept idle hport free hin <|
    reaches_first (.write1 0xE3) hdec (show _ ∈ oneByteCommands by decide) (hprog _ rfl) rfl <|
    reaches_next (.sleep 300) hdec (.inl rfl) (hprog _ rfl) rfl <|
    reaches_next .read1 hdec trivial (hprog _ rfl) rfl <|
    reaches_next .read1 hdec trivial (hprog _ rfl) rfl <|
    reaches_next .read1 hdec trivial (hprog _ rfl) rfl <|
    reaches_success hdec (hprog _ rfl) (resume_acquire .t 0x00 _ _ f [] (accepted_of_crc hcrc))
  refine hrun.trans (congrArg Host.Outcome.next ?_)
  simp only [succeeded_during _ _ idle hport free, List.append_assoc, List.cons_append, List.nil_append]
  rfl

end Sys2Proof.Proofs
end


section
/-! SUPPORT and PROOFS. The outcomes of a step: a wire command issues its transaction (O28), exactly the undefined host
accesses are refused (O37), and under the invariant nothing else stops a step (O45). -/

namespace Sys2Proof.Proofs

open Sys2Proof.Machine Sys2Proof.Safety

/-! ### Wire commands -/

/-- A wire command issues its transaction at DEV_ADDR, unless one is outstanding (R70, R71, R120). -/
theorem exec_wire_issued {i : Instr} (op : BusOp) {s : State} (free : ∀ t, s.port ≠ .outstanding t)
    (hi : wireOp i = some op) : exec i s = .next (issued (addressed s.devaddr op) s) :=
  (exec_wire s hi).trans (congrArg Host.Outcome.next (transmit_of_free op free))

/-- Settles O28. -/
theorem wireCommandsIssueTheirTransaction : Obligations.WireCommandsIssueTheirTransaction :=
  fun _ free =>
    ⟨exec_wire_issued (.write1 0xE3) free rfl, exec_wire_issued (.write1 0xF3) free rfl,
      exec_wire_issued (.write1 0xE5) free rfl, exec_wire_issued (.write1 0xF5) free rfl,
      fun d => exec_wire_issued (.write2 0xE6 d) free rfl, exec_wire_issued (.write1 0xE7) free rfl,
      exec_wire_issued (.write1 0xFE) free rfl⟩

/-! ### Undefined accesses -/

/-- The four ways an access can be undefined (R62). -/
theorem access_undefined_iff (a : Access) :
    (a.off % 4 ≠ 0 ∨ 0x3C < a.off ∨ a.width ≠ 32 ∨ a.lanes ≠ 0xF) ↔ a.wellFormed = false := by
  simp only [Access.wellFormed, Bool.and_eq_false_iff, decide_eq_false_iff_not, beq_eq_false_iff_ne, Nat.not_le,
    or_assoc]

theorem hostRead_undefined {a : Access} (ha : a.wellFormed = false) (s : State) :
    hostRead a s = .refused (.undefinedHostAccess a) := if_neg (by simp [ha])

theorem hostWrite_undefined {a : Access} (ha : a.wellFormed = false) (v : Word) (s : State) :
    hostWrite a v s = .refused (.undefinedHostAccess a) := if_neg (by simp [ha])

theorem step_hostRead_refused_iff {s : State} {a : Access} {rest : List Input}
    (hin : s.inputs = .hostRead a :: rest) :
    a.wellFormed = false ↔ step s = .refused (.undefinedHostAccess a) := by
  cases ha : a.wellFormed with
  | false => simp [step, systemStep, hin, hostRead_undefined ha]
  | true => simp [step_hostRead hin ha]

theorem step_hostWrite_refused_iff {s : State} {a : Access} {v : Word} {rest : List Input}
    (hin : s.inputs = .hostWrite a v :: rest) :
    a.wellFormed = false ↔ step s = .refused (.undefinedHostAccess a) := by
  cases ha : a.wellFormed with
  | false => simp [step, systemStep, hin, hostWrite_undefined ha]
  | true => simp [step_hostWrite hin ha]

/-- Settles O37. -/
theorem undefinedAccessesAreRefused : Obligations.UndefinedAccessesAreRefused :=
  fun _ a _ _ => ⟨fun hin => (access_undefined_iff a).trans (step_hostRead_refused_iff hin),
    fun hin => (access_undefined_iff a).trans (step_hostWrite_refused_iff hin)⟩

/-! ### No other stop under the invariant -/

/-- A command's step is driven to a next state: the port knows every transaction a command asks for (R72). -/
theorem thenDrive_command_next {i : Instr} {n : Nat} {s : State} {got : List Answer}
    (hn : transactionsOf i = some n) (hs : AtStep s got) : ∃ t, thenDrive (exec i s) = .next t := by
  rcases exec_command_atStep hn hs with ⟨-, op, ok, he⟩ | ⟨t, he, hends⟩ <;> rw [he, thenDrive]
  · exact ⟨_, ok.drive s⟩
  · have quiet : ∀ op, t.port ≠ .requested op := by
      cases hends <;> exact fun op hop => by cases hs.2.symm.trans hop
    exact ⟨t, drivePort_quiet quiet⟩

/-- With no undriven request in the port, HTSC's own step has a next state. -/
theorem htscStep_next {s : State} (driven : ∀ op, s.port ≠ .requested op) : ∃ t, htscStep s = .next t := by
  unfold htscStep
  split
  case h_1 => exact ⟨s, rfl⟩
  case h_2 op hop => exact absurd hop (driven op)
  case h_3 hport =>
    split
    case h_1 => exact ⟨s, rfl⟩
    case h_2 got hseq =>
      split
      case h_1 i hi =>
        obtain ⟨n, hn⟩ := decodeCmd_transactions hi
        exact thenDrive_command_next hn ⟨hseq, hport⟩
      case h_2 => exact ⟨_, rfl⟩

/-- Under the invariant a step has a next state, or refuses an undefined access. -/
theorem step_outcome {s : State} (inv : Inv s) :
    (∃ t, step s = .next t) ∨ ∃ a, a.wellFormed = false ∧ step s = .refused (.undefinedHostAccess a) := by
  rcases step_cases s with ⟨-, hstep⟩ | ⟨rest, ⟨-, hstep⟩ | ⟨a, hin, -⟩ | ⟨a, v, hin, -⟩ | ⟨e, b, -, hstep⟩ |
    ⟨-, hstep⟩⟩
  · exact .inl (hstep ▸ htscStep_next inv.driven)
  · exact .inl (hstep ▸ htscStep_next inv.driven)
  · cases ha : a.wellFormed with
    | true => exact .inl ⟨_, step_hostRead hin ha⟩
    | false => exact .inr ⟨a, ha, (step_hostRead_refused_iff hin).mp ha⟩
  · cases ha : a.wellFormed with
    | true => exact .inl ⟨_, step_hostWrite hin ha⟩
    | false => exact .inr ⟨a, ha, (step_hostWrite_refused_iff hin).mp ha⟩
  · exact .inl ⟨_, hstep⟩
  · exact .inl ⟨_, hstep⟩

/-- Settles O45. -/
theorem invariantStatesStepSafely : Obligations.InvariantStatesStepSafely := by
  intro s inv
  rcases step_outcome inv with ⟨t, hstep⟩ | ⟨a, ha, hstep⟩ <;> rw [Safe, hstep]
  · exact ⟨nofun, nofun⟩
  · exact ⟨nofun, fun r hr => ⟨a, ha, (Host.Outcome.refused.inj hr).symm⟩⟩

end Sys2Proof.Proofs
end


section
/-! SUPPORT and PROOFS. The reference sensor of R80 in the loop, and SET_RESOLUTION then READ_CONFIG with it (O50). -/

namespace Sys2Proof.Proofs

open Sys2Proof.Machine Sys2Proof.Safety

/-! ### The sensor's user register -/

/-- Bit 6 follows `battery_low` (R80). -/
theorem userReg_battery (q : RefSensor) : userReg q &&& 0x40 = batteryBit q := by
  cases hlow : q.batteryLow <;> simp [userReg, batteryBit, hlow, BitVec.and_or_distrib_right, BitVec.and_assoc]

/-- The read command moves the read pointer only (R80). -/
theorem userReg_readCommand (q : RefSensor) : userReg (sensorWrite1 0xE7 q) = userReg q := rfl

/-- A byte that leaves bit 6 alone reads back as written (R80). -/
theorem userReg_sensorWrite2 {q : RefSensor} {d : Byte} (hd : d &&& 0x40 = userReg q &&& 0x40) :
    userReg (sensorWrite2 0xE6 d q) = d := by
  have hwrite : userReg (sensorWrite2 0xE6 d q) =
      (((userReg q &&& 0x40) ||| (d &&& 0xBF)) &&& 0xBF) ||| batteryBit q := rfl
  rw [hwrite, ← userReg_battery, ← hd]
  ext k hk
  interval_cases k <;> simp

/-- The read-modify-write of the resolution field leaves bit 6 alone (R142). -/
theorem resolution_keeps_battery {r : Byte} (old : Byte) (hr : r = 0x00 ∨ r = 0x01 ∨ r = 0x80 ∨ r = 0x81) :
    ((old &&& 0x7E) ||| r) &&& 0x40 = old &&& 0x40 := by
  rcases hr with rfl | rfl | rfl | rfl <;> simp [BitVec.and_or_distrib_right, BitVec.and_assoc]

/-! ### The closed loop -/

/-- `k` steps of HTSC with the sensor attached lead from `x` to `y` (R80). -/
def ClosedReaches (k : Nat) (x y : State × RefSensor) : Prop := closedRun k x = .next y

theorem closedReaches_zero (x : State × RefSensor) : ClosedReaches 0 x x := rfl

section Loop

variable {k : Nat} {s t : State} {q : RefSensor} {y : State × RefSensor}

/-- With nothing outstanding, the machine steps. -/
theorem closedReaches_step (free : ∀ x, s.port ≠ .outstanding x) (h : step s = .next t)
    (hrest : ClosedReaches k (t, q) y) : ClosedReaches (k + 1) (s, q) y := by
  have hstep : closedStep (s, q) = .next (t, q) := by
    cases hport : s.port with
    | outstanding x => exact absurd hport (free x)
    | idle => simp [closedStep, hport, h]
    | requested op => simp [closedStep, hport, h]
  rw [ClosedReaches, closedRun, hstep]
  exact hrest

/-- The sensor answers an outstanding transaction, and takes it. -/
theorem closedReaches_answer {x : Txn} (hport : s.port = .outstanding x)
    (hrest : ClosedReaches k (answerTxn false (react x q).1 s, (react x q).2) y) :
    ClosedReaches (k + 1) (s, q) y := by
  have hstep : closedStep (s, q) = .next (answerTxn false (react x q).1 s, (react x q).2) := by
    simp [closedStep, sensorAnswer, hport]
  rw [ClosedReaches, closedRun, hstep]
  exact hrest

end Loop

/-- The next step is HTSC's own: a tick, or nothing, is next (log entry 1). -/
def HtscMoves (inputs : List Input) : Prop := inputs = [] ∨ ∃ rest, inputs = .tick :: rest

theorem step_own {s : State} (h : HtscMoves s.inputs) : step s = htscStep { s with inputs := s.inputs.tail } := by
  rcases h with hin | ⟨rest, hin⟩
  · have same : { s with inputs := s.inputs.tail } = s := by rw [hin, List.tail_nil, ← hin]
    rw [same, step_nil hin]
  · rw [step_tick hin, hin, List.tail_cons]

/-! ### A command in the closed loop -/

section Commands

variable {k : Nat} {s : State} {w : Word} {i : Instr} {p : Prog} {held : Bool} {trace : List BusEvent}
  {got : List Answer} {inputs rest : List Input} {q : RefSensor} {y : State × RefSensor}

theorem closedReaches_accept (idle : s.busy = false) (hport : s.port = .idle)
    (hin : s.inputs = .hostWrite (regAccess .cmd) w :: rest)
    (hrest : ClosedReaches k (during w s s.busHeld s.trace [] rest, q) y) : ClosedReaches (k + 1) (s, q) y := by
  refine closedReaches_step (by simp [hport]) (step_cmdWrite_idle idle hin) ?_
  simpa only [during, afterAccept, hport] using hrest

/-- One exchange: the command issues its transaction and the sensor answers it. -/
theorem closedReaches_exchange (op : BusOp) {next : Answer → Prog} (moves : HtscMoves inputs)
    (hi : decodeCmd w = .ok i) (ok : RequestOk op)
    (hp : commandProg (during w s held trace got inputs) i = some p) (hr : p.resume got = .bus op next)
    (hrest : ClosedReaches k
      (during w s true
        ((if held then trace else trace ++ [.acquire]) ++ [.issue (addressed s.devaddr op)] ++
          [.answer (responseOf (addressed s.devaddr op) false (react (addressed s.devaddr op) q).1)])
        (got ++ [responseOf (addressed s.devaddr op) false (react (addressed s.devaddr op) q).1]) inputs.tail,
        (react (addressed s.devaddr op) q).2) y) :
    ClosedReaches (k + 2) (during w s held trace got inputs, q) y :=
  closedReaches_step nofun
    ((step_own moves).trans (htscStep_asks (got := got) ⟨rfl, rfl⟩ hi ((commandProg_inputs i _ _).trans hp) hr ok))
    (closedReaches_answer rfl hrest)

theorem closedReaches_success {r0 r1 : Word} (moves : HtscMoves inputs) (hi : decodeCmd w = .ok i)
    (hp : commandProg (during w s held trace got inputs) i = some p) (hr : p.resume got = .finishOk r0 r1)
    (hrest : ClosedReaches k (succeeded r0 r1 (during w s held trace got inputs.tail), q) y) :
    ClosedReaches (k + 1) (during w s held trace got inputs, q) y :=
  closedReaches_step nofun
    ((step_own moves).trans
      (htscStep_success (got := got) ⟨rfl, rfl⟩ hi ((commandProg_inputs i _ _).trans hp) hr)) hrest

end Commands

/-! ### SET_RESOLUTION, then READ_CONFIG -/

/-- A command ended with success and the result `r0`, and the inputs `rest` are left (R31). -/
structure Completed (t : State) (r0 : Word) (rest : List Input) : Prop where
  err : t.err = .none
  busy : t.busy = false
  done : t.done = true
  res0 : t.res0 = r0
  port : t.port = .idle
  inputs : t.inputs = rest

theorem completed_succeeded (r0 r1 : Word) (w : Word) (s : State) (held : Bool) (trace : List BusEvent)
    (got : List Answer) (rest : List Input) :
    Completed (succeeded r0 r1 (during w s held trace got rest)) r0 rest :=
  ⟨rfl, rfl, rfl, rfl, rfl, rfl⟩

theorem closedReaches_trans {j k : Nat} {x y z : State × RefSensor} (hj : ClosedReaches j x y)
    (hk : ClosedReaches k y z) : ClosedReaches (k + j) x z := by
  induction j generalizing x with
  | zero =>
    obtain rfl := Host.Outcome.next.inj hj
    exact hk
  | succ j ih =>
    rw [ClosedReaches, closedRun] at hj
    rw [← Nat.add_assoc, ClosedReaches, closedRun]
    cases hstep : closedStep x <;> rw [hstep] at hj
    case next u => exact ih hj
    all_goals cases hj

/-- SET_RESOLUTION in the loop: the read-modify-write reaches the sensor (R142, R147). -/
theorem setResolution_closed {s : State} {r : Byte} {rest : List Input} (q : RefSensor)
    (hr : r = 0x00 ∨ r = 0x01 ∨ r = 0x80 ∨ r = 0x81) (idle : s.busy = false) (hport : s.port = .idle)
    (hin : s.inputs =
      .hostWrite (regAccess .cmd) (0x00000300 ||| r.setWidth 32) :: .tick :: .tick :: .tick :: .tick :: rest) :
    ∃ t, ClosedReaches 8 (s, q)
        (t, sensorWrite2 0xE6 ((userReg q &&& 0x7E) ||| r) (sensorWrite1 0xE7 q)) ∧
      Completed t (byteWord ((userReg q &&& 0x7E) ||| r)) rest := by
  have hdec : decodeCmd (0x00000300 ||| r.setWidth 32) = .ok (.setResolution r) := by
    rcases hr with rfl | rfl | rfl | rfl <;> rfl
  have hprog : ∀ s' : State, commandProg s' (.setResolution r) = some (rmw resKeep r) := fun s' =>
    congrArg some (checkArg_legal _ (by simpa [argLegal, or_assoc] using hr))
  have tick : ∀ inputs, HtscMoves (.tick :: inputs) := fun inputs => .inr ⟨inputs, rfl⟩
  exact ⟨_, closedReaches_accept idle hport hin <|
    closedReaches_exchange (.write1 0xE7) (tick _) hdec (show _ ∈ oneByteCommands by decide) (hprog _) rfl <|
    closedReaches_exchange .read1 (tick _) hdec trivial (hprog _) rfl <|
    closedReaches_exchange (.write2 0xE6 ((userReg q &&& 0x7E) ||| r)) (tick _) hdec rfl (hprog _) rfl <|
    closedReaches_success (tick _) hdec (hprog _) rfl (closedReaches_zero _), completed_succeeded ..⟩

/-- READ_CONFIG in the loop returns the sensor's user register (R140). -/
theorem readConfig_closed {s : State} (q : RefSensor) (idle : s.busy = false) (hport : s.port = .idle)
    (hin : s.inputs = [.hostWrite (regAccess .cmd) 0x00000100]) :
    ∃ t, ClosedReaches 6 (s, q) (t, sensorWrite1 0xE7 q) ∧ Completed t (byteWord (userReg q)) [] := by
  have hdec : decodeCmd 0x00000100 = .ok (.readConfig 0) := rfl
  have nothing : HtscMoves [] := .inl rfl
  exact ⟨_, closedReaches_accept idle hport hin <|
    closedReaches_exchange (.write1 0xE7) nothing hdec (show _ ∈ oneByteCommands by decide) rfl rfl <|
    closedReaches_exchange .read1 nothing hdec trivial rfl rfl <|
    closedReaches_success nothing hdec rfl rfl (closedReaches_zero _), completed_succeeded ..⟩

/-- Settles O50: the byte SET_RESOLUTION writes leaves bit 6 alone, so it is the byte READ_CONFIG reads. -/
theorem resolutionReadsBackFromTheReferenceSensor : Obligations.ResolutionReadsBackFromTheReferenceSensor := by
  intro s q r hr idle hport hin
  obtain ⟨t, hset, ht⟩ := setResolution_closed q hr idle hport hin
  obtain ⟨u, hread, hu⟩ := readConfig_closed _ ht.busy ht.port ht.inputs
  refine ⟨u, _, closedReaches_trans hset hread, hu.err, hu.busy, hu.done, ?_⟩
  have hbit : ((userReg q &&& 0x7E) ||| r) &&& 0x40 = userReg (sensorWrite1 0xE7 q) &&& 0x40 := by
    rw [userReg_readCommand]
    exact resolution_keeps_battery (userReg q) hr
  rw [hu.res0, userReg_sensorWrite2 hbit]
  rfl

end Sys2Proof.Proofs
end


section
/-! SUPPORT and PROOFS. The two encodings: the fields of a command word, what the decoder accepts, the round trips
(O1, O2, O3); and the first step of a word that is no command (O4) and of a command with an illegal argument (O5). -/

namespace Sys2Proof.Proofs

open Sys2Proof.Machine Sys2Proof.Safety

/-! ### The fields of a command word (R100) -/

theorem cmdWord_getLsbD (opcode arg : Byte) (k : Nat) :
    (cmdWord opcode arg).getLsbD k = if k < 8 then arg.getLsbD k else opcode.getLsbD (k - 8) := by
  simp only [cmdWord, BitVec.getLsbD_setWidth, BitVec.getLsbD_append]
  rcases Nat.lt_or_ge k 32 with h | h
  · simp [h]
  · simp [show ¬ k < 32 by omega, show ¬ k < 8 by omega, BitVec.getLsbD_of_ge opcode (k - 8) (by omega)]

@[simp] theorem opcodeOf_cmdWord (opcode arg : Byte) : opcodeOf (cmdWord opcode arg) = opcode := by
  apply BitVec.eq_of_getLsbD_eq
  intro k hk
  simp [opcodeOf, cmdWord_getLsbD, hk]

@[simp] theorem argByteOf_cmdWord (opcode arg : Byte) : argByteOf (cmdWord opcode arg) = arg := by
  apply BitVec.eq_of_getLsbD_eq
  intro k hk
  simp [argByteOf, cmdWord_getLsbD, hk]

@[simp] theorem reserved_cmdWord (opcode arg : Byte) : (cmdWord opcode arg).extractLsb' 16 16 = 0 := by
  ext k hk
  simp [cmdWord]

/-- A word with zero reserved bits is the word of its two fields. -/
theorem cmdWord_fields {w : Word} (reserved : w.extractLsb' 16 16 = 0) : cmdWord (opcodeOf w) (argByteOf w) = w := by
  apply BitVec.eq_of_getLsbD_eq
  intro k hk
  have high : 16 ≤ k → w.getLsbD k = false := fun hge => by
    simpa [show 16 + (k - 16) = k by omega, show k - 16 < 16 by omega] using
      congrArg (·.getLsbD (k - 16)) reserved
  simp only [cmdWord_getLsbD, opcodeOf, argByteOf, BitVec.getLsbD_extractLsb']
  split
  · simp [*]
  · rcases Nat.lt_or_ge k 16 with h16 | h16
    · simp [show k - 8 < 8 by omega, show 8 + (k - 8) = k by omega]
    · simp [show ¬ k - 8 < 8 by omega, high h16]

/-! ### What the decoder accepts -/

/-- The byte of a case of the decoders' matches, which are on `toNat`. -/
theorem eq_ofNat_of_toNat {b : Byte} {n : Nat} (h : b.toNat = n) : b = BitVec.ofNat 8 n := by simp [← h]

/-- The opcode map and the encoder are one table, of the assigned opcodes (R106). -/
theorem assigned_and_encode_of_opcodeInstr {opcode arg : Byte} {i : Instr} (h : opcodeInstr opcode arg = some i) :
    opcode ∈ assignedOpcodes ∧ encode i = .cmd (cmdWord opcode arg) := by
  unfold opcodeInstr at h
  split at h <;> cases h <;> rw [eq_ofNat_of_toNat ‹opcode.toNat = _›] <;> exact ⟨by decide, rfl⟩

/-- The opcode map has every assigned opcode, and no other (R102, R106). -/
theorem exists_opcodeInstr_iff {opcode : Byte} (arg : Byte) :
    (∃ i, opcodeInstr opcode arg = some i) ↔ opcode ∈ assignedOpcodes := by
  constructor
  · rintro ⟨i, h⟩
    exact (assigned_and_encode_of_opcodeInstr h).1
  · intro h
    unfold assignedOpcodes at h
    fin_cases h <;> exact ⟨_, rfl⟩

/-- The decoder checks the reserved bits, then reads the opcode map (R101, R102). -/
theorem decodeCmd_ok_iff {w : Word} {i : Instr} :
    decodeCmd w = .ok i ↔ w.extractLsb' 16 16 = 0 ∧ opcodeInstr (opcodeOf w) (argByteOf w) = some i := by
  unfold decodeCmd
  split
  · simp_all
  · split <;> simp_all

/-- Every instruction is encoded as the command word of its opcode, or as bytes that the wire decoder reads whole. -/
theorem encode_cases (i : Instr) :
    (∃ opcode arg, encode i = .cmd (cmdWord opcode arg) ∧ opcodeInstr opcode arg = some i) ∨
      ∃ bytes, encode i = .wire bytes ∧ decodeWire bytes = .ok (i, []) := by
  cases i
  case wireTrigTHold | wireTrigTNohold | wireTrigRhHold | wireTrigRhNohold | wireWriteUserReg | wireReadUserReg |
      wireSoftReset => exact .inr ⟨_, rfl, rfl⟩
  all_goals exact .inl ⟨_, _, rfl, rfl⟩

/-- The words that decode (R101, R102, R106). -/
theorem decodeCmd_isOk_iff {w : Word} :
    (∃ i, decodeCmd w = .ok i) ↔ w.extractLsb' 16 16 = 0 ∧ opcodeOf w ∈ assignedOpcodes := by
  simp only [decodeCmd_ok_iff, exists_and_left, exists_opcodeInstr_iff]

/-! ### The obligations on the encodings -/

/-- Settles O1: each word and each byte sequence is closed, so the decoder computes its instruction or its rejection. -/
theorem writtenOutWordsDecode : Obligations.WrittenOutWordsDecode :=
  ⟨rfl, rfl, rfl, rfl, rfl, rfl, rfl, rfl⟩

/-- Settles O2, by the two forms an encoding has. -/
theorem decodeOfEncodeIsTheInstruction : Obligations.DecodeOfEncodeIsTheInstruction := by
  intro i
  rcases encode_cases i with ⟨opcode, arg, henc, hop⟩ | ⟨bytes, henc, hdec⟩
  · rw [henc, decode, decodeCmd_ok_iff]
    exact ⟨reserved_cmdWord opcode arg, by simpa using hop⟩
  · simp [henc, decode, hdec]

/-- Settles O3. -/
theorem decodedWordsEncodeToThemselves : Obligations.DecodedWordsEncodeToThemselves := by
  refine ⟨fun w i h => ?_, fun w reserved assigned => decodeCmd_isOk_iff.mpr ⟨reserved, assigned⟩⟩
  obtain ⟨reserved, hop⟩ := decodeCmd_ok_iff.mp h
  rw [(assigned_and_encode_of_opcodeInstr hop).2, cmdWord_fields reserved]

/-! ### A word that is no command -/

/-- A running command word that does not decode ends with ILLEGAL_COMMAND (R256). -/
theorem htscStep_undecoded {s : State} {got : List Answer} (hs : AtStep s got)
    (undecoded : ¬ ∃ i, decodeCmd s.lCmd = .ok i) : htscStep s = .next (failed .illegalCommand s) := by
  obtain ⟨hseq, hport⟩ := hs
  cases hi : decodeCmd s.lCmd with
  | ok i => exact absurd ⟨i, hi⟩ undecoded
  | error e => simp [htscStep, hseq, hport, hi, finish_eq_failed]

/-- Settles O4: the CMD write is accepted, and the next step is the sequencer's, on a word that does not decode. -/
theorem illegalWordEndsInItsFirstStep : Obligations.IllegalWordEndsInItsFirstStep := by
  intro s w rest idle hport hin illegal
  have undecoded : ¬ ∃ i, decodeCmd w = .ok i := by
    rw [decodeCmd_isOk_iff, not_and_or]
    exact illegal
  exact reaches_step (step_cmdWrite_idle idle hin)
    (reaches_step ((step_tick rfl).trans (htscStep_undecoded (got := []) ⟨rfl, hport⟩ undecoded)) (reaches_zero _))

/-! ### An argument outside its legal set -/

/-- Every command's pseudocode first checks its argument byte against its kind (R149). -/
theorem commandProg_checksArg {i : Instr} {kind : ArgKind} {arg : Byte} (s : State) (h : argOf i = some (kind, arg)) :
    ∃ p, commandProg s i = some (checkArg kind arg p) := by
  cases i <;> cases h <;> exact ⟨_, rfl⟩

/-- An ill-formed instruction is a command whose argument byte its kind does not allow. -/
theorem illegalArg_of_not_wellFormed {i : Instr} (h : i.wellFormed = false) :
    ∃ kind arg, argOf i = some (kind, arg) ∧ argLegal kind arg = false := by
  unfold Instr.wellFormed at h
  split at h
  · exact ⟨_, _, ‹_›, h⟩
  · cases h

/-- Settles O5: the check is the first phrase of the pseudocode, and it fails. -/
theorem illegalArgumentEndsInItsFirstStep : Obligations.IllegalArgumentEndsInItsFirstStep := by
  intro i s illFormed hs
  obtain ⟨kind, arg, harg, illegal⟩ := illegalArg_of_not_wellFormed illFormed
  obtain ⟨p, hp⟩ := commandProg_checksArg s harg
  rw [exec_atStep hp hs, checkArg_illegal p illegal, resume_finish, run_finish]

end Sys2Proof.Proofs
end


section
/-! SUPPORT for the statements about a command. What a command does at a position, from the rest of its pseudocode;
the refusal of an argument byte; the word of an opcode and an argument byte. -/

namespace Sys2Proof.Proofs

open Sys2Proof.Machine Sys2Proof.Safety

/-! ### A command at a position -/

section Positions

variable {i : Instr} {s : State} {p : Prog} {got : List Answer}

/-- Before a transaction HTSC may make, the command asks for it and the port issues it (R41). -/
theorem asks_atStep {op : BusOp} {next : Answer → Prog} (hp : commandProg s i = some p)
    (hr : p.resume got = .bus op next) (ok : RequestOk op) (hs : AtStep s got) : Asks i op s := by
  have hask : exec i s = .next (asking op s) := by rw [exec_atStep hp hs, hr, run_bus]
  exact ⟨hask, by rw [hask, thenDrive, ok.drive]⟩

theorem exec_failed_atStep {code : ErrCode} (hp : commandProg s i = some p) (hr : p.resume got = .finish code)
    (hs : AtStep s got) : exec i s = .next (failed code s) := by
  rw [exec_atStep hp hs, hr, run_finish]

theorem exec_succeeded_atStep {r0 r1 : Word} (hp : commandProg s i = some p)
    (hr : p.resume got = .finishOk r0 r1) (hs : AtStep s got) : exec i s = .next (succeeded r0 r1 s) := by
  rw [exec_atStep hp hs, hr, run_finishOk]

end Positions

/-! ### Argument bytes -/

/-- A command refuses an argument byte its kind does not allow (R149, R251). -/
theorem rejectsArgument_of_illegal {i : Instr} {kind : ArgKind} {arg : Byte} (s : State)
    (harg : argOf i = some (kind, arg)) (illegal : argLegal kind arg = false) : RejectsArgument i s :=
  illegalArgumentEndsInItsFirstStep i s (by rw [Instr.wellFormed, harg]; exact illegal)

/-- A command that takes no argument refuses every byte but 0. -/
theorem rejectsArgument_of_ne_zero {i : Instr} {arg : Byte} (s : State) (harg : argOf i = some (.none, arg))
    (h : arg ≠ 0) : RejectsArgument i s :=
  rejectsArgument_of_illegal s harg (beq_eq_false_iff_ne.mpr h)

/-- A command that takes a Boolean refuses every byte from 2 on. -/
theorem rejectsArgument_of_two_le {i : Instr} {arg : Byte} (s : State) (harg : argOf i = some (.bool, arg))
    (h : 2 ≤ arg.toNat) : RejectsArgument i s := by
  have h0 : arg ≠ 0x00 := by rintro rfl; exact absurd h (by decide)
  have h1 : arg ≠ 0x01 := by rintro rfl; exact absurd h (by decide)
  exact rejectsArgument_of_illegal s harg (by simpa [argLegal] using ⟨h0, h1⟩)

/-! ### Command words -/

/-- The argument byte fills the low byte of a command word (R100, R130). -/
theorem cmdWord_zero_or (opcode arg : Byte) : cmdWord opcode 0 ||| arg.setWidth 32 = cmdWord opcode arg := by
  apply BitVec.eq_of_getLsbD_eq
  intro k hk
  rw [BitVec.getLsbD_or, cmdWord_getLsbD, cmdWord_getLsbD, BitVec.getLsbD_setWidth]
  split
  · simp [hk]
  · simp [BitVec.getLsbD_of_ge arg k (by omega)]

/-- A word of an assigned opcode decodes at every argument byte (R106). -/
theorem decodeCmd_or_arg {w : Word} {opcode arg : Byte} {i : Instr} (hw : w = cmdWord opcode 0)
    (hop : opcodeInstr opcode arg = some i) : decodeCmd (w ||| arg.setWidth 32) = .ok i := by
  rw [hw, cmdWord_zero_or, decodeCmd_ok_iff]
  exact ⟨reserved_cmdWord opcode arg, by simpa using hop⟩

end Sys2Proof.Proofs
end


section
/-! SUPPORT and PROOFS. The register controller: the user register read (O6, O11), written (O7) and modified (O8, O9,
O10), and the soft reset (O12). -/

namespace Sys2Proof.Proofs

open Sys2Proof.Machine Sys2Proof.Safety

/-! ### The shared bodies -/

/-- What a command does through `reg_read()` (R73): its two transactions, and BUS_ERROR where one answers `err`. -/
structure ReadsRegister (i : Instr) (s : State) : Prop where
  command : AtStep s [] → Asks i (.write1 0xE7) s
  read : AtStep s [.ok] → Asks i .read1 s
  commandErr : AtStep s [.err] → exec i s = .next (failed .busError s)
  readErr : AtStep s [.ok, .err] → exec i s = .next (failed .busError s)

theorem readsRegister_of_prog {i : Instr} {s : State} {k : Byte → Prog} (hp : commandProg s i = some (regRead k)) :
    ReadsRegister i s where
  command := asks_atStep hp rfl (show _ ∈ oneByteCommands by decide)
  read := asks_atStep hp rfl trivial
  commandErr := exec_failed_atStep hp rfl
  readErr := exec_failed_atStep hp rfl

/-- `rmw(keep, set)` (R147): `reg_read()`, then the write of the new byte. -/
theorem readsModifiesWrites_of_prog {i : Instr} {s : State} {keep set : Byte}
    (hp : commandProg s i = some (rmw keep set)) : ReadsModifiesWrites i keep set s := by
  obtain ⟨command, read, commandErr, readErr⟩ := readsRegister_of_prog hp
  exact ⟨command, read, fun _ => asks_atStep hp rfl rfl, fun _ => exec_succeeded_atStep hp rfl, commandErr, readErr,
    fun _ => exec_failed_atStep hp rfl⟩

/-! ### The byte a read-modify-write writes -/

/-- Bits the command does not set stay as they were read (R147). -/
theorem rmw_keeps {keep set : Byte} (old : Byte) (disjoint : set &&& keep = 0) :
    ((old &&& keep) ||| set) &&& keep = old &&& keep := by
  rw [BitVec.and_or_distrib_right, BitVec.and_assoc, BitVec.and_self, disjoint]
  exact BitVec.or_zero

/-- The field outside `keep` is what the command sets (R147). -/
theorem rmw_sets {keep set field : Byte} (old : Byte) (cleared : keep &&& field = 0) (inField : set &&& field = set) :
    ((old &&& keep) ||| set) &&& field = set := by
  rw [BitVec.and_or_distrib_right, BitVec.and_assoc, cleared, inField]
  simp

/-! ### The obligations -/

/-- Settles O6: the pseudocode is `reg_read()` and the byte read is the result. -/
theorem readConfigReadsTheUserRegister : Obligations.ReadConfigReadsTheUserRegister := by
  intro s v
  have hp : commandProg s (.readConfig 0) = some (regRead fun v => .finishOk (byteWord v) 0) := rfl
  obtain ⟨command, read, commandErr, readErr⟩ := readsRegister_of_prog hp
  exact ⟨rfl, fun _ => rejectsArgument_of_ne_zero s rfl, command, read,
    exec_succeeded_atStep hp rfl, commandErr, readErr⟩

/-- Settles O7: the pseudocode is `reg_write(v)` alone (R73). -/
theorem writeConfigWritesTheByteAsGiven : Obligations.WriteConfigWritesTheByteAsGiven := by
  intro s v
  have hp : commandProg s (.writeConfig v) = some (regWrite v (.finishOk (byteWord v) 0)) := rfl
  exact ⟨decodeCmd_or_arg (opcode := 0x02) rfl rfl, asks_atStep hp rfl rfl, exec_succeeded_atStep hp rfl,
    exec_failed_atStep hp rfl⟩

/-- Settles O8: a legal code passes the check into `rmw(0x7E, r)` and lies in the two bits that 0x7E clears. -/
theorem setResolutionChangesOnlyBitsSevenAndZero : Obligations.SetResolutionChangesOnlyBitsSevenAndZero := by
  intro s r
  refine ⟨decodeCmd_or_arg (opcode := 0x03) rfl rfl, fun hr => ⟨?_, fun old => ?_⟩, fun h0 h1 h2 h3 => ?_⟩
  · have legal : argLegal .rescode r = true := by simpa [argLegal, or_assoc] using hr
    exact readsModifiesWrites_of_prog (congrArg some (checkArg_legal _ legal))
  · obtain ⟨disjoint, inField⟩ : r &&& 0x7E = 0 ∧ r &&& 0x81 = r := by
      rcases hr with rfl | rfl | rfl | rfl <;> decide
    exact ⟨rmw_keeps old disjoint, rmw_sets old (by decide) inField⟩
  · exact rejectsArgument_of_illegal s rfl (by simpa [argLegal, and_assoc] using ⟨h0, h1, h2, h3⟩)

/-- Settles O9: each legal argument is an `rmw` that keeps all bits but bit 2. -/
theorem setHeaterChangesOnlyBitTwo : Obligations.SetHeaterChangesOnlyBitTwo := by
  intro s
  refine ⟨rfl, rfl, readsModifiesWrites_of_prog rfl, readsModifiesWrites_of_prog rfl,
    fun _ => rejectsArgument_of_two_le s rfl, fun old => ?_⟩
  rw [rmw_keeps old (by decide)]
  exact BitVec.or_zero

/-- What the OTP_DISABLE bit of the written byte says is what the command sets (R144, R148). -/
theorem otpReloadEnabledOf_rmw (old : Byte) {set : Byte} (inField : set &&& 0x02 = set) :
    otpReloadEnabledOf ((old &&& 0xFD) ||| set) = (set == 0) := by
  rw [otpReloadEnabledOf, otpDisable, rmw_sets old (by decide) inField]

/-- Settles O10: each legal argument is an `rmw` that keeps all bits but bit 1, and bit 1 disables the reload. -/
theorem setOtpReloadChangesOnlyBitOneInverted : Obligations.SetOtpReloadChangesOnlyBitOneInverted := by
  intro s
  exact ⟨rfl, rfl, readsModifiesWrites_of_prog rfl, readsModifiesWrites_of_prog rfl,
    fun _ => rejectsArgument_of_two_le s rfl,
    fun old => ⟨otpReloadEnabledOf_rmw old rfl, otpReloadEnabledOf_rmw old rfl⟩⟩

/-- END_OF_BATTERY is bit 6 (R148). -/
theorem batteryLowOf_eq (cfg : Byte) : batteryLowOf cfg = cfg.getLsbD 6 := by
  rw [batteryLowOf, show battMask = BitVec.twoPow 8 6 from rfl, BitVec.and_twoPow]
  cases cfg.getLsbD 6 <;> decide

/-- Settles O11: the pseudocode is `reg_read()`, and the results are bit 6 and the byte read. -/
theorem isBatteryLowTestsBitSix : Obligations.IsBatteryLowTestsBitSix := by
  intro s v
  have hp : commandProg s (.isBatteryLow 0) =
      some (regRead fun v => .finishOk (boolWord (batteryLowOf v)) (byteWord v)) := rfl
  obtain ⟨command, read, commandErr, readErr⟩ := readsRegister_of_prog hp
  refine ⟨rfl, fun _ => rejectsArgument_of_ne_zero s rfl, command, read, fun hs => ?_,
    commandErr, readErr⟩
  rw [← batteryLowOf_eq]
  exact exec_succeeded_atStep hp rfl hs

/-- Settles O12: the wait stands between the write and the end, and an `err` on the write ends before it. -/
theorem softResetWaitsBeforeItCompletes : Obligations.SoftResetWaitsBeforeItCompletes := by
  intro s
  have hp : commandProg s (.softReset 0) = some (busWrite1 0xFE (busSleep 15 (.finishOk 0 0))) := rfl
  exact ⟨rfl, fun _ => rejectsArgument_of_ne_zero s rfl,
    asks_atStep hp rfl (show _ ∈ oneByteCommands by decide), asks_atStep hp rfl (.inr rfl),
    exec_succeeded_atStep hp rfl, exec_failed_atStep hp rfl⟩

end Sys2Proof.Proofs
end


section
/-! SUPPORT and PROOFS. The checksum (R173): the division is linear over GF(2) and leaves a remainder of 8 bits, so a
frame is valid exactly with its checksum (O51) and a single-bit error shows (O52). -/

namespace Sys2Proof.Proofs

open Sys2Proof.Machine Sys2Proof.Safety

/-! ### The division -/

/-- The division is linear: the steps' decisions add up like the remainders. -/
theorem crcLoop_xor (n : Nat) (r r' d : BitVec 24) :
    crcLoop n (r ^^^ r') d = crcLoop n r d ^^^ crcLoop n r' d := by
  induction n generalizing r r' d with
  | zero => rfl
  | succ n ih =>
    have step : (if (r ^^^ r').getLsbD (n + 8) then r ^^^ r' ^^^ d else r ^^^ r') =
        (if r.getLsbD (n + 8) then r ^^^ d else r) ^^^ (if r'.getLsbD (n + 8) then r' ^^^ d else r') := by
      rw [BitVec.getLsbD_xor]
      cases r.getLsbD (n + 8) <;> cases r'.getLsbD (n + 8) <;> simp only [Bool.xor_false, Bool.false_xor,
        Bool.xor_self, Bool.false_eq_true, if_true, if_false]
      · ac_rfl
      · ac_rfl
      · rw [show r ^^^ d ^^^ (r' ^^^ d) = r ^^^ r' ^^^ (d ^^^ d) by ac_rfl, BitVec.xor_self, BitVec.xor_zero]
    rw [crcLoop, crcLoop, crcLoop, step, ih]

/-- Where no bit above 7 is set there is nothing to divide. -/
theorem crcLoop_of_low (n : Nat) {r : BitVec 24} (d : BitVec 24) (low : ∀ k, 8 ≤ k → r.getLsbD k = false) :
    crcLoop n r d = r := by
  induction n generalizing d with
  | zero => rfl
  | succ n ih => rw [crcLoop, low (n + 8) (by omega), if_neg Bool.false_ne_true, ih]

/-- A divisor whose top bit stands at the tested bit clears it, so the remainder ends below bit 8. -/
theorem crcLoop_high (n : Nat) {r d : BitVec 24} (hr : ∀ k, n + 8 ≤ k → r.getLsbD k = false)
    (hd : ∀ k, n + 7 ≤ k → d.getLsbD k = decide (k = n + 7)) {k : Nat} (hk : 8 ≤ k) :
    (crcLoop n r d).getLsbD k = false := by
  induction n generalizing r d with
  | zero => exact hr k (by omega)
  | succ n ih =>
    rw [crcLoop]
    refine ih (fun j hj => ?_) (fun j hj => ?_)
    · have top : j = n + 8 ∨ n + 1 + 8 ≤ j := by omega
      rcases top with rfl | above
      · cases hbit : r.getLsbD (n + 8) <;> simp [hbit, hd (n + 8) (by omega)]
      · have hdj : d.getLsbD j = false := by simpa [show j ≠ n + 8 by omega] using hd j (by omega)
        split <;> simp [hr j above, hdj]
    · rw [BitVec.getLsbD_ushiftRight, hd (1 + j) (by omega)]
      exact decide_eq_decide.mpr (by omega)

/-- The divisor's top bit is bit 23 (R122). -/
theorem crcDivisor_top {k : Nat} (hk : 23 ≤ k) : crcDivisor.getLsbD k = decide (k = 23) := by
  rcases hk.eq_or_lt with rfl | above
  · rfl
  · rw [BitVec.getLsbD_of_ge _ _ above, decide_eq_false above.ne']

/-! ### Frames -/

/-- The remainder has 8 bits (R173). -/
theorem crcRem24_eq (f : Frame) : crcRem24 f = (crcRem f).setWidth 24 := by
  apply BitVec.eq_of_getLsbD_eq
  intro k hk
  rcases Nat.lt_or_ge k 8 with low | high
  · simp [crcRem, low, hk]
  · have hrem : (crcRem24 f).getLsbD k = false :=
      crcLoop_high 16 (fun j hj => BitVec.getLsbD_of_ge _ _ hj) (fun j hj => crcDivisor_top hj) high
    rw [hrem, BitVec.getLsbD_setWidth, BitVec.getLsbD_of_ge _ _ high, Bool.and_false]

theorem crcRem24_eq_zero_iff (f : Frame) : crcRem24 f = 0 ↔ crcRem f = 0 := by
  constructor
  · intro h
    rw [crcRem, h]
    rfl
  · intro h
    rw [crcRem24_eq, h]
    rfl

/-- The checksum byte stands apart from the other two in a frame's 24 bits. -/
theorem frame_bits_eq_xor (m l c : Byte) : m ++ l ++ c = (m ++ l ++ (0 : Byte)) ^^^ c.setWidth 24 := by
  apply BitVec.eq_of_getLsbD_eq
  intro k hk
  simp only [BitVec.getLsbD_xor, BitVec.getLsbD_append, BitVec.getLsbD_setWidth]
  by_cases low : k < 8
  · simp [low, hk]
  · simp [low, BitVec.getLsbD_of_ge c k (by omega)]

/-- The checksum byte is added to the remainder of the other two, untouched by the division. -/
theorem crcRem_eq_crc8_xor (f : Frame) : crcRem f = crc8 f.msb f.lsb ^^^ f.crc := by
  have low : ∀ k, 8 ≤ k → (f.crc.setWidth 24).getLsbD k = false := fun k hk => by
    rw [BitVec.getLsbD_setWidth, BitVec.getLsbD_of_ge _ _ hk, Bool.and_false]
  have h24 : crcRem24 f = crcRem24 ⟨f.msb, f.lsb, 0x00⟩ ^^^ f.crc.setWidth 24 := by
    rw [crcRem24, frame_bits_eq_xor, crcLoop_xor, crcLoop_of_low 16 crcDivisor low]
    rfl
  rw [crcRem, h24, crc8, crcRem]
  apply BitVec.eq_of_getLsbD_eq
  intro k hk
  simp [hk, show k < 24 by omega]

/-- Settles O51: the remainder is the CRC-8 of the first two bytes added to the checksum byte. -/
theorem frameIsValidExactlyWithItsChecksum : Obligations.FrameIsValidExactlyWithItsChecksum := by
  refine ⟨crcRem24_eq, fun f => ?_, by decide +kernel⟩
  rw [crcRem_eq_crc8_xor]
  exact BitVec.xor_eq_zero_iff.trans eq_comm

/-- No power of `x` below the 24th is a multiple of the divisor's polynomial. -/
theorem crcLoop_single_bit : ∀ k < 24, crcLoop 16 (1#24 <<< k) crcDivisor ≠ 0 := by decide +kernel

/-- Settles O52: by linearity the remainder of the changed frame is the one of the flipped bit alone. -/
theorem singleBitErrorsAreDetected : Obligations.SingleBitErrorsAreDetected := by
  intro f g k valid hk flipped
  have hf : crcLoop 16 (f.msb ++ f.lsb ++ f.crc) crcDivisor = 0 := (crcRem24_eq_zero_iff f).mpr valid
  have hg : crcRem24 g = crcLoop 16 (1#24 <<< k) crcDivisor := by
    rw [crcRem24, flipped, crcLoop_xor, hf]
    exact BitVec.zero_xor
  rw [ne_eq, ← crcRem24_eq_zero_iff, hg]
  exact crcLoop_single_bit k hk

end Sys2Proof.Proofs
end


section
/-! SUPPORT for the measurement commands. The values on measured inputs: the masked word (R172), the conversions of a raw
code (R213 to R216, R219), and SVP and DEW, which find a neighbour there (R217, R218). -/

namespace Sys2Proof.Proofs

open Sys2Proof.Machine Sys2Proof.Safety

/-! ### The masked word -/

/-- STATUS_MASK clears the two status bits (R122). -/
theorem and_statusMask_toNat (r : Raw) : (r &&& statusMask).toNat = r.toNat / 4 * 4 := by
  have hshift : r &&& statusMask = r >>> 2 <<< 2 := by
    apply BitVec.eq_of_getLsbD_eq
    intro k hk
    interval_cases k <;> simp [statusMask]
  have hlt := r.isLt
  rw [hshift, BitVec.toNat_shiftLeft, BitVec.toNat_ushiftRight, Nat.shiftLeft_eq, Nat.shiftRight_eq_div_pow]
  omega

/-- A masked word is a multiple of 4 up to 65532 (R175). -/
theorem rawOf_toNat (f : Frame) : (rawOf f).toNat % 4 = 0 ∧ (rawOf f).toNat ≤ 65532 := by
  have h : (rawOf f).toNat = (f.msb ++ f.lsb).toNat / 4 * 4 := and_statusMask_toNat (f.msb ++ f.lsb)
  have hlt := (f.msb ++ f.lsb).isLt
  omega

/-! ### The integer conversions -/

theorem fitsS32_iff (x : Int) : fitsS32 x = true ↔ -2 ^ 31 ≤ x ∧ x ≤ 2 ^ 31 - 1 := by simp [fitsS32]

theorem fitsU32_iff (x : Int) : fitsU32 x = true ↔ 0 ≤ x ∧ x ≤ 2 ^ 32 - 1 := by simp [fitsU32]

theorem tempC_range {raw : Raw} (h : raw.toNat ≤ 65532) : -46850 ≤ tempC raw ∧ tempC raw ≤ 128859 := by
  unfold tempC rdiv
  omega

theorem humRaw_range {raw : Raw} (h : raw.toNat ≤ 65532) : -6000 ≤ humRaw raw ∧ humRaw raw ≤ 118992 := by
  unfold humRaw rdiv
  omega

/-- TEMPF exists for every temperature a measurement and every dew point a conversion can give (R214, R219). -/
theorem tempF_eq_some {c : Int} (lo : -235660 ≤ c) (hi : c ≤ 2 ^ 24) : tempF c = some (rdiv (9 * c) 5 + 32000) := by
  refine if_pos ((fitsS32_iff _).mpr ?_)
  unfold rdiv
  omega

theorem humComp_measured {t h : Int} (tlo : -46850 ≤ t) (thi : t ≤ 128867) (hlo : -6000 ≤ h) (hhi : h ≤ 118998) :
    ∃ v, humComp t h = some v ∧ -16777 ≤ v ∧ v ≤ 134578 := by
  unfold humComp
  split
  · have range : -16777 ≤ h + rdiv ((t - 25000) * 15) 100 ∧ h + rdiv ((t - 25000) * 15) 100 ≤ 134578 := by
      unfold rdiv
      omega
    exact ⟨_, if_pos ((fitsS32_iff _).mpr (by omega)), range⟩
  · exact ⟨h, rfl, by omega, by omega⟩

/-! ### Rounding -/

/-- With the floor in range, either draw finds a neighbour in range (R212). -/
theorem roundExact_of_floor {inRange : Int → Bool} {x : Exact} (up : Bool) (h : inRange x.floor = true) :
    ∃ r, roundExact Config.rounding up inRange x = some r ∧ (r = x.floor ∨ r = x.ceil) ∧ inRange r = true := by
  obtain ⟨r, hr⟩ : ∃ r, roundExact Config.rounding up inRange x = some r :=
    ⟨_, show roundExact .faithful up inRange x = _ from if_pos h⟩
  exact ⟨r, hr, (roundExact_faithful inRange x r).mp ⟨up, hr⟩⟩

/-! ### SVP -/

/-- R217's `x` as one power of ten, above the blow-up point, with the temperature in milli-degrees. -/
theorem svpReal_eq_rpow {t : Int} (h : -235660 < t) :
    svpReal t = (10 : ℝ) ^ ((14.1332 : ℝ) - 1762390 / ((t : ℝ) + 235660)) := by
  have ht : (0 : ℝ) < (t : ℝ) + 235660 := by
    have : (-235660 : ℝ) < t := by exact_mod_cast h
    linarith
  have e6 : (10 : ℝ) ^ (6 : ℕ) = (10 : ℝ) ^ (6 : ℝ) := by norm_num
  have e1 : (t : ℝ) / 1000 + 235.66 = (t + 235660) / 1000 := by ring
  unfold svpReal
  rw [e6, ← Real.rpow_add (by norm_num), e1]
  congr 1
  field_simp
  ring

/-- On measured temperatures the pressure is at least 1 µmmHg and fits u32 (R219). -/
theorem svpReal_measured {t : Int} (lo : -46850 ≤ t) (hi : t ≤ 128867) : 1 ≤ svpReal t ∧ svpReal t < 2 ^ 32 := by
  have tlo : (-46850 : ℝ) ≤ t := by exact_mod_cast lo
  have thi : (t : ℝ) ≤ 128867 := by exact_mod_cast hi
  have tpos : (0 : ℝ) < (t : ℝ) + 235660 := by linarith
  rw [svpReal_eq_rpow (by omega)]
  constructor
  · refine Real.one_le_rpow (by norm_num) ?_
    rw [sub_nonneg, div_le_iff₀ tpos]
    linarith
  · have hexp : (14.1332 : ℝ) - 1762390 / ((t : ℝ) + 235660) ≤ 19 / 2 := by
      rw [sub_le_comm, le_div_iff₀ tpos]
      linarith
    have hsq : ((10 : ℝ) ^ (19 / 2 : ℝ)) ^ 2 = 10 ^ 19 := by
      rw [← Real.rpow_natCast, ← Real.rpow_mul (by norm_num)]
      norm_num
    refine lt_of_le_of_lt (Real.rpow_le_rpow_of_exponent_le (by norm_num) hexp) ?_
    exact lt_of_pow_lt_pow_left₀ 2 (by norm_num) (by rw [hsq]; norm_num)

/-- On measured temperatures either draw of SVP is a positive neighbour of the exact pressure (R217, R219). -/
theorem svp_measured {t : Int} (up : Bool) (lo : -46850 ≤ t) (hi : t ≤ 128867) :
    ∃ p, svp up t = some p ∧ 0 < p ∧ InFR (svpReal t) 0 (2 ^ 32 - 1) p := by
  obtain ⟨hlo, hhi⟩ := svpReal_measured lo hi
  obtain ⟨e, he, hfloor, hceil, hle⟩ := svpExact_spec (show t ≠ -235660 by omega)
  have floorPos : 1 ≤ ⌊svpReal t⌋ := Int.le_floor.mpr (by exact_mod_cast hlo)
  have floorLt : ⌊svpReal t⌋ < 2 ^ 32 := Int.floor_lt.mpr (by exact_mod_cast hhi)
  have floorEq : e.floor = ⌊svpReal t⌋ := by omega
  have ceilEq : e.ceil = ⌈svpReal t⌉ := hceil (hhi.trans (by norm_num))
  obtain ⟨p, hp, hor, hfits⟩ := roundExact_of_floor up ((fitsU32_iff e.floor).mpr (by omega))
  refine ⟨p, by rw [svp, he]; exact hp, ?_, ?_, (fitsU32_iff p).mp hfits⟩
  · rcases hor with h | h <;> omega
  · rwa [← floorEq, ← ceilEq]

/-! ### DEW -/

theorem dew_of_not_pos {h p : Int} (up : Bool) (hp : h * p ≤ 0) : dew up h p = none := by
  rw [dew, dewExact, if_pos hp]
  rfl

/-- Every exact dew point lies between -235660 and 2^24 - 235660 milli-°C, far inside s32 (R218, R219). -/
theorem dewReal_range {h p : Int} (pos : 0 < h * p) (lt : h * p < 10 ^ 19) :
    -235660 < dewReal h p ∧ dewReal h p < 2 ^ 24 - 235660 := by
  have posR : (0 : ℝ) < ((h * p : ℤ) : ℝ) := by exact_mod_cast pos
  have hlog : Real.logb 10 ((h * p : ℤ) : ℝ) < 19 := by
    rw [Real.logb_lt_iff_lt_rpow (by norm_num) posR, show (10 : ℝ) ^ (19 : ℝ) = 10 ^ (19 : ℕ) by norm_num]
    exact_mod_cast lt
  have hden : (0.1332 : ℝ) < 19.1332 - Real.logb 10 ((h * p : ℤ) : ℝ) := by linarith
  have denPos : (0 : ℝ) < 19.1332 - Real.logb 10 ((h * p : ℤ) : ℝ) := by linarith
  rw [dewReal_eq pos lt]
  constructor
  · linarith [div_pos (show (0 : ℝ) < 1762390 by norm_num) denPos]
  · rw [sub_lt_sub_iff_right, div_lt_iff₀ denPos]
    linarith

/-- For a positive s32 humidity and u32 pressure either draw of DEW is a neighbour of the exact dew point (R218). -/
theorem dew_of_pos {h p : Int} (up : Bool) (hpos : 0 < h) (hhi : h ≤ 2 ^ 31 - 1) (ppos : 0 < p)
    (phi : p ≤ 2 ^ 32 - 1) :
    ∃ r, dew up h p = some r ∧ InFR (dewReal h p) (-2 ^ 31) (2 ^ 31 - 1) r ∧ -235660 ≤ r ∧ r ≤ 2 ^ 24 := by
  have pos : 0 < h * p := Int.mul_pos hpos ppos
  have lt : h * p < 10 ^ 19 :=
    calc h * p ≤ (2 ^ 31 - 1) * (2 ^ 32 - 1) := Int.mul_le_mul hhi phi ppos.le (by norm_num)
      _ < 10 ^ 19 := by norm_num
  obtain ⟨rlo, rhi⟩ := dewReal_range pos lt
  obtain ⟨e, he, hfloor, hceil⟩ := dewExact_spec pos lt
  have floorLo : -235660 ≤ ⌊dewReal h p⌋ := Int.le_floor.mpr (by exact_mod_cast rlo.le)
  have ceilHi : ⌈dewReal h p⌉ ≤ 2 ^ 24 - 235660 := Int.ceil_le.mpr (by exact_mod_cast rhi.le)
  have floorLeCeil := Int.floor_le_ceil (dewReal h p)
  obtain ⟨r, hr, hor, hfits⟩ := roundExact_of_floor up ((fitsS32_iff e.floor).mpr (by omega))
  rw [hfloor, hceil] at hor
  exact ⟨r, by rw [dew, he]; exact hr, ⟨hor, (fitsS32_iff r).mp hfits⟩, by omega, by omega⟩

end Sys2Proof.Proofs
end


section
/-! SUPPORT and PROOFS. The measurement commands: what a command does through an acquisition, the raw measurements (O13,
O14), the converted ones (O15, O16, O17), the dew points (O18, O19), and CRC_CHECK (O20). -/

namespace Sys2Proof.Proofs

open Sys2Proof.Machine Sys2Proof.Safety

/-! ### One acquisition -/

/-- A frame with a nonzero remainder fails the policy of a command that checks its frames (R174). -/
theorem accepted_of_bad {s : State} {f : Frame} (enabled : crcEnabled s = true) (bad : crcRem f ≠ 0) :
    accepted s f = false := by
  rw [accepted, enabled, beq_eq_false_iff_ne.mpr bad]
  rfl

/-- A command that stands before an acquisition after the answers `pre` goes through it (R171). -/
theorem acquiresAfter_of_prog {i : Instr} {q : Quantity} {mode : Byte} {s : State} {p : Prog} {pre : List Answer}
    {k : Raw → Frame → Prog} (hp : commandProg s i = some p) (legal : argLegal .mode mode = true)
    (hr : ∀ got, p.resume (pre ++ got) = (acquire q mode s k).resume got) : AcquiresAfter i q mode s pre := by
  have trigger : (if q = .t then 0xE3 else 0xE5) ||| mode = triggerByte q mode := by cases q <;> rfl
  have start : p.resume pre = acquire q mode s k := by simpa using hr []
  refine ⟨fun hs => ?_, asks_atStep hp (hr _) (.inl rfl), asks_atStep hp (hr _) trivial,
    fun _ => asks_atStep hp (hr _) trivial, fun _ _ => asks_atStep hp (hr _) trivial,
    exec_failed_atStep hp (hr _), exec_failed_atStep hp (hr _), fun _ => exec_failed_atStep hp (hr _),
    fun _ _ => exec_failed_atStep hp (hr _), fun f enabled bad => exec_failed_atStep hp ?_⟩
  · rw [trigger]
    exact asks_atStep hp start (requestOk_trigger q legal) hs
  · rw [hr, ← List.append_nil (frameAnswers f)]
    exact resume_acquire_bad q mode s k f [] (accepted_of_bad enabled bad)

/-- An accepted frame leads to what follows its acquisition (R171). -/
theorem resume_acquire_frame (q : Quantity) (mode : Byte) {s : State} (k : Raw → Frame → Prog) {f : Frame}
    (h : accepted s f = true) : (acquire q mode s k).resume (frameAnswers f) = k (rawOf f) f := by
  rw [← List.append_nil (frameAnswers f), resume_acquire q mode s k f [] h, resume_nil]
  rfl

/-! ### The raw measurements -/

theorem argLegal_mode {mode : Byte} (h : mode = 0x00 ∨ mode = 0x10) : argLegal .mode mode = true := by
  simpa [argLegal] using h

/-- A command that takes a mode refuses every byte but the two modes. -/
theorem rejectsArgument_of_no_mode {i : Instr} {mode : Byte} (s : State) (harg : argOf i = some (.mode, mode))
    (h0 : mode ≠ 0x00) (h1 : mode ≠ 0x10) : RejectsArgument i s :=
  rejectsArgument_of_illegal s harg (by simpa [argLegal] using ⟨h0, h1⟩)

/-- A command that is one acquisition and its result `value` (R175, R176, R177). -/
theorem measuresOnce_of_prog {i : Instr} {q : Quantity} {mode : Byte} {s : State} (value : Raw → Word)
    (legal : argLegal .mode mode = true)
    (hp : commandProg s i = some (acquire q mode s fun raw fr => .finishOk (value raw) (frameWord fr))) :
    AcquiresAfter i q mode s [] ∧ ∀ f, accepted s f = true → AtStep s (frameAnswers f) →
      exec i s = .next (succeeded (value (rawOf f)) (frameWord f) s) :=
  ⟨acquiresAfter_of_prog hp legal fun _ => rfl,
    fun _ good => exec_succeeded_atStep hp (resume_acquire_frame q mode _ good)⟩

/-- Settles O13: a legal mode passes the check into one temperature acquisition. -/
theorem measureRawTReturnsTheMaskedWord : Obligations.MeasureRawTReturnsTheMaskedWord := by
  intro s mode
  refine ⟨decodeCmd_or_arg (opcode := 0x10) rfl rfl, rejectsArgument_of_no_mode s rfl, fun hmode => ?_, rawOf_toNat⟩
  have legal := argLegal_mode hmode
  exact measuresOnce_of_prog rawWord legal (congrArg some (checkArg_legal _ legal))

/-- Settles O14: a legal mode passes the check into one humidity acquisition. -/
theorem measureRawRhReturnsTheMaskedWord : Obligations.MeasureRawRhReturnsTheMaskedWord := by
  intro s mode
  refine ⟨decodeCmd_or_arg (opcode := 0x11) rfl rfl, rejectsArgument_of_no_mode s rfl, fun hmode => ?_, rawOf_toNat⟩
  have legal := argLegal_mode hmode
  exact measuresOnce_of_prog rawWord legal (congrArg some (checkArg_legal _ legal))

/-! ### The converted measurements -/

/-- Settles O15: one acquisition in the latched mode, and TEMPC of the masked word. -/
theorem getTemperatureCMeasuresAndConverts : Obligations.GetTemperatureCMeasuresAndConverts := by
  intro s
  obtain ⟨acquires, ends⟩ := measuresOnce_of_prog (i := .getTemperatureC 0) (q := .t) (fun rt => intWord (tempC rt))
    (modeByte_legal s) rfl
  exact ⟨rfl, fun _ => rejectsArgument_of_ne_zero s rfl, acquires, ends, fun f => tempC_range (rawOf_toNat f).2⟩

/-- Settles O16: as GET_TEMPERATURE_C, and TEMPF of a measured temperature exists. -/
theorem getTemperatureFMeasuresAndConverts : Obligations.GetTemperatureFMeasuresAndConverts := by
  intro s
  have hp : commandProg s (.getTemperatureF 0) =
      some (acquire .t (modeByte s) s fun rt fr =>
        conversion (tempF (tempC rt)) fun v => .finishOk (intWord v) (frameWord fr)) := rfl
  refine ⟨rfl, fun _ => rejectsArgument_of_ne_zero s rfl, acquiresAfter_of_prog hp (modeByte_legal s) fun _ => rfl,
    fun f good hs => ?_⟩
  obtain ⟨lo, hi⟩ := tempC_range (rawOf_toNat f).2
  have hF := tempF_eq_some (c := tempC (rawOf f)) (by omega) (by omega)
  refine ⟨_, hF, by unfold rdiv; omega, by unfold rdiv; omega, exec_succeeded_atStep hp ?_ hs⟩
  rw [resume_acquire_frame .t (modeByte s) _ good, hF]
  rfl

/-- The compensated humidity of two masked words exists and is well inside s32 (R219). -/
theorem humComp_frames (f f' : Frame) :
    ∃ h, humComp (tempC (rawOf f)) (humRaw (rawOf f')) = some h ∧ -16777 ≤ h ∧ h ≤ 134578 := by
  obtain ⟨tlo, thi⟩ := tempC_range (rawOf_toNat f).2
  obtain ⟨hlo, hhi⟩ := humRaw_range (rawOf_toNat f').2
  exact humComp_measured tlo (by omega) hlo (by omega)

/-- Settles O17: the humidity acquisition is reached only past an accepted temperature frame. -/
theorem getHumidityMeasuresTemperatureThenHumidity : Obligations.GetHumidityMeasuresTemperatureThenHumidity := by
  intro s
  have hp : commandProg s (.getHumidity 0) =
      some (acquire .t (modeByte s) s fun rt _ => acquire .rh (modeByte s) s fun rh f2 =>
        conversion (humComp (tempC rt) (humRaw rh)) fun h => .finishOk (intWord h) (frameWord f2)) := rfl
  refine ⟨rfl, fun _ => rejectsArgument_of_ne_zero s rfl, acquiresAfter_of_prog hp (modeByte_legal s) fun _ => rfl,
    fun f1 good1 => ?_⟩
  refine ⟨acquiresAfter_of_prog hp (modeByte_legal s) fun got => resume_acquire _ _ _ _ _ got good1,
    fun f2 good2 hs => ?_⟩
  obtain ⟨h, hh, -, -⟩ := humComp_frames f1 f2
  refine ⟨h, hh, exec_succeeded_atStep hp ?_ hs⟩
  rw [resume_acquire _ _ _ _ _ _ good1, resume_acquire_frame _ _ _ good2]
  exact congrArg (conversion · _) hh

/-! ### The dew points -/

theorem run_progSvp {t p : Int} (k : Int → Prog) {s : State} (h : svp (Config.roundUp s.draws) t = some p) :
    (progSvp t k).run s = { (k p).run { s with draws := s.draws + 1 } with port := s.port } := by
  rw [progSvp, run_draw, h]
  rfl

theorem run_progDew {h p r : Int} (k : Int → Prog) {s : State} (hd : dew (Config.roundUp s.draws) h p = some r) :
    (progDew h p k).run s = { (k r).run { s with draws := s.draws + 1 } with port := s.port } := by
  rw [progDew, run_draw, hd]
  rfl

theorem run_progDew_none {h p : Int} (k : Int → Prog) {s : State} (hd : dew (Config.roundUp s.draws) h p = none) :
    (progDew h p k).run s = failed .mathDomainError { s with draws := s.draws + 1 } := by
  rw [progDew, run_draw, hd]
  rfl

section Dewpoint

variable {t h : Int} (s : State) (k : Int → Prog) (tlo : -46850 ≤ t) (thi : t ≤ 128867)
include tlo thi

/-- At a humidity not above zero the dew point has no value: DEW raises (R218). -/
theorem run_dewpoint_dry (dry : h ≤ 0) :
    ∃ n, (progSvp t fun p => progDew h p k).run s = failed .mathDomainError { s with draws := n } := by
  obtain ⟨p, hp, ppos, -⟩ := svp_measured (Config.roundUp s.draws) tlo thi
  refine ⟨s.draws + 2, ?_⟩
  rw [run_progSvp _ hp,
    run_progDew_none k (dew_of_not_pos _ (Int.mul_nonpos_of_nonpos_of_nonneg dry ppos.le))]
  rfl

/-- At a humidity above zero SVP and DEW find neighbours of the exact values, the second at the first's (R217, R218). -/
theorem run_dewpoint_humid (humid : 0 < h) (hhi : h ≤ 2 ^ 31 - 1) :
    ∃ (p r : Int) (n : Nat), InFR (svpReal t) 0 (2 ^ 32 - 1) p ∧ InFR (dewReal h p) (-2 ^ 31) (2 ^ 31 - 1) r ∧
      (-235660 ≤ r ∧ r ≤ 2 ^ 24) ∧
      (progSvp t fun p => progDew h p k).run s = { (k r).run { s with draws := n } with port := s.port } := by
  obtain ⟨p, hp, ppos, near, plo, phi⟩ := svp_measured (Config.roundUp s.draws) tlo thi
  obtain ⟨r, hr, rfr, rrange⟩ := dew_of_pos (Config.roundUp (s.draws + 1)) humid hhi ppos phi
  refine ⟨p, r, s.draws + 2, ⟨near, plo, phi⟩, rfr, rrange, ?_⟩
  rw [run_progSvp _ hp, run_progDew k hr]

end Dewpoint

/-- What the two dew-point getters share (R180, R181): the three acquisitions, and after them a humidity that is either
dry, MATH_DOMAIN_ERROR, or leads to the end `k` of the pseudocode with a neighbour of the dew point. -/
structure MeasuresDewpoint (i : Instr) (k : Int → Frame → Prog) (s : State) : Prop where
  first : AcquiresAfter i .t (modeByte s) s []
  second {f1 : Frame} : accepted s f1 = true → AcquiresAfter i .t (modeByte s) s (frameAnswers f1)
  third {f1 f2 : Frame} : accepted s f1 = true → accepted s f2 = true →
    AcquiresAfter i .rh (modeByte s) s (frameAnswers f1 ++ frameAnswers f2)
  ends {f1 f2 f3 : Frame} : accepted s f1 = true → accepted s f2 = true → accepted s f3 = true →
    AtStep s (frameAnswers f1 ++ frameAnswers f2 ++ frameAnswers f3) →
    ∃ h : Int, humComp (tempC (rawOf f2)) (humRaw (rawOf f3)) = some h ∧
      (h ≤ 0 → ∃ n : Nat, exec i s = .next (failed .mathDomainError { s with draws := n })) ∧
      (0 < h → ∃ (p r : Int) (n : Nat), InFR (svpReal (tempC (rawOf f1))) 0 (2 ^ 32 - 1) p ∧
        InFR (dewReal h p) (-2 ^ 31) (2 ^ 31 - 1) r ∧ (-235660 ≤ r ∧ r ≤ 2 ^ 24) ∧
        exec i s = .next { (k r f3).run { s with draws := n } with port := s.port })

theorem measuresDewpoint_of_prog {i : Instr} {k : Int → Frame → Prog} {s : State}
    (hp : commandProg s i = some (dewpoint s k)) : MeasuresDewpoint i k s where
  first := acquiresAfter_of_prog hp (modeByte_legal s) fun _ => rfl
  second good1 := acquiresAfter_of_prog hp (modeByte_legal s) fun got => resume_acquire _ _ _ _ _ got good1
  third good1 good2 := acquiresAfter_of_prog hp (modeByte_legal s) fun got => by
    rw [List.append_assoc, dewpoint, resume_acquire _ _ _ _ _ _ good1, resume_acquire _ _ _ _ _ _ good2]
  ends {f1 f2 f3} good1 good2 good3 hs := by
    obtain ⟨h, hh, -, hhi⟩ := humComp_frames f2 f3
    obtain ⟨tlo, thi⟩ := tempC_range (rawOf_toNat f1).2
    have hexec : exec i s =
        .next ((progSvp (tempC (rawOf f1)) fun p => progDew h p fun d => k d f3).run s) := by
      rw [exec_atStep hp hs, List.append_assoc, dewpoint, resume_acquire _ _ _ _ _ _ good1,
        resume_acquire _ _ _ _ _ _ good2, resume_acquire_frame _ _ _ good3]
      exact congrArg (fun o => Host.Outcome.next ((conversion o _).run s)) hh
    rw [hexec]
    refine ⟨h, hh, fun dry => ?_, fun humid => ?_⟩
    · obtain ⟨n, hrun⟩ := run_dewpoint_dry s (fun d => k d f3) tlo (by omega) dry
      exact ⟨n, congrArg _ hrun⟩
    · obtain ⟨p, r, n, hfr, rfr, rrange, hrun⟩ :=
        run_dewpoint_humid s (fun d => k d f3) tlo (by omega) humid (by omega)
      exact ⟨p, r, n, hfr, rfr, rrange, congrArg _ hrun⟩

/-- Settles O18: the end is success with the dew point. -/
theorem getDewpointCMeasuresThreeTimes : Obligations.GetDewpointCMeasuresThreeTimes := by
  intro s
  obtain ⟨first, second, third, ends⟩ := measuresDewpoint_of_prog (i := .getDewpointC 0) (s := s) rfl
  refine ⟨rfl, fun _ => rejectsArgument_of_ne_zero s rfl, first, fun f1 good1 => ⟨second good1, fun f2 good2 =>
    ⟨third good1 good2, fun f3 good3 hs => ?_⟩⟩⟩
  obtain ⟨h, hh, dry, humid⟩ := ends good1 good2 good3 hs
  refine ⟨h, hh, dry, fun hpos => ?_⟩
  obtain ⟨p, r, n, hfr, rfr, -, hexec⟩ := humid hpos
  exact ⟨p, r, n, hfr, rfr, hexec⟩

/-- Settles O19: the end is TEMPF of the dew point, which lies inside TEMPF's range. -/
theorem getDewpointFMeasuresThreeTimes : Obligations.GetDewpointFMeasuresThreeTimes := by
  intro s
  obtain ⟨first, second, third, ends⟩ := measuresDewpoint_of_prog (i := .getDewpointF 0) (s := s) rfl
  refine ⟨rfl, fun _ => rejectsArgument_of_ne_zero s rfl, first, fun f1 good1 => ⟨second good1, fun f2 good2 =>
    ⟨third good1 good2, fun f3 good3 hs => ?_⟩⟩⟩
  obtain ⟨h, hh, dry, humid⟩ := ends good1 good2 good3 hs
  refine ⟨h, hh, dry, fun hpos => ?_⟩
  obtain ⟨p, r, n, hfr, rfr, ⟨rlo, rhi⟩, hexec⟩ := humid hpos
  have hF := tempF_eq_some rlo rhi
  rw [hF] at hexec
  exact ⟨p, r, _, n, hfr, rfr, hF, hexec⟩

/-! ### CRC_CHECK -/

/-- Settles O20: the operand is a frame exactly if its top byte is zero, and there is no transaction. -/
theorem crcCheckReturnsTheRemainder : Obligations.CrcCheckReturnsTheRemainder := by
  intro s
  have hp : commandProg s (.crcCheck 0) =
      some (operand (frame24 s.lOpa) fun f => .finishOk (byteWord (crcRem f)) 0) := rfl
  refine ⟨rfl, fun _ => rejectsArgument_of_ne_zero s rfl, fun high => ?_, fun low => ?_⟩
  · rw [frame24, if_neg high] at hp
    exact exec_failed_atStep hp rfl
  · rw [frame24, if_pos low] at hp
    exact exec_succeeded_atStep hp rfl

end Sys2Proof.Proofs
end

section
/-! SUPPORT and PROOFS. The converter's functions: rounding (O53), the integer conversions (O54, O55, O56), SVP (O57) and
DEW (O58, O60) against the reals, and the ranges on measured inputs (O59). -/

namespace Sys2Proof.Proofs

open Sys2Proof.Machine Sys2Proof.Safety

/-! ### Rounding to the nearest integer -/

theorem rdiv_nearest (n : Int) {d : Int} (hd : 0 < d) :
    2 * n - d < 2 * (d * rdiv n d) ∧ 2 * (d * rdiv n d) ≤ 2 * n + d := by
  have below : rdiv n d * (2 * d) ≤ 2 * n + d := Int.ediv_mul_le _ (by omega)
  have above : 2 * n + d < (rdiv n d + 1) * (2 * d) := Int.lt_ediv_add_one_mul_self _ (by omega)
  constructor <;> linarith

/-- Settles O53: the quotient is the floor of `n / d + 1 / 2`. -/
theorem rdivIsTheNearestInteger : Obligations.RdivIsTheNearestInteger :=
  ⟨fun n _ => rdiv_nearest n, by decide⟩

/-! ### The integer conversions -/

/-- TEMPC is its formula rounded once (R213). -/
theorem tempC_nearest (raw : Raw) :
    -32768 < 65536 * (tempC raw + 46850) - raw.toNat * 175720 ∧
      65536 * (tempC raw + 46850) - raw.toNat * 175720 ≤ 32768 := by
  have near := rdiv_nearest (raw.toNat * 175720) (show (0 : Int) < 65536 by norm_num)
  unfold tempC
  omega

/-- HUMRAW is its formula rounded once (R215). -/
theorem humRaw_nearest (raw : Raw) :
    -32768 < 65536 * (humRaw raw + 6000) - raw.toNat * 125000 ∧
      65536 * (humRaw raw + 6000) - raw.toNat * 125000 ≤ 32768 := by
  have near := rdiv_nearest (raw.toNat * 125000) (show (0 : Int) < 65536 by norm_num)
  unfold humRaw
  omega

/-- The range of TEMPC over all codes, masked or not. -/
theorem tempC_bounds (raw : Raw) : -46850 ≤ tempC raw ∧ tempC raw ≤ 128867 := by
  have near := tempC_nearest raw
  have code := raw.isLt
  omega

/-- The range of HUMRAW over all codes, masked or not. -/
theorem humRaw_bounds (raw : Raw) : -6000 ≤ humRaw raw ∧ humRaw raw ≤ 118998 := by
  have near := humRaw_nearest raw
  have code := raw.isLt
  omega

/-- Settles O54. -/
theorem rawConversionsAreRoundedOnce : Obligations.RawConversionsAreRoundedOnce := fun raw =>
  ⟨tempC_nearest raw, humRaw_nearest raw, tempC_bounds raw, humRaw_bounds raw, by decide⟩

/-- The range of TEMPF's operand is the one on which its value fits s32 (R214). -/
theorem fitsS32_fahrenheit_iff (c : Int) :
    fitsS32 (rdiv (9 * c) 5 + 32000) = true ↔ -1193064249 ≤ c ∧ c ≤ 1193028693 := by
  have near := rdiv_nearest (9 * c) (show (0 : Int) < 5 by norm_num)
  rw [fitsS32_iff]
  omega

theorem tempF_of_range {c : Int} (lo : -1193064249 ≤ c) (hi : c ≤ 1193028693) :
    tempF c = some (rdiv (9 * c) 5 + 32000) :=
  if_pos ((fitsS32_fahrenheit_iff c).mpr ⟨lo, hi⟩)

theorem tempF_of_out_of_range {c : Int} (out : c < -1193064249 ∨ 1193028693 < c) : tempF c = none :=
  if_neg fun fits => by
    have range := (fitsS32_fahrenheit_iff c).mp fits
    omega

/-- Settles O55: five divides no half, so the rounding is within two fifths. -/
theorem fahrenheitIsWithinTwoFifths : Obligations.FahrenheitIsWithinTwoFifths := by
  refine fun c => ⟨fun ⟨lo, hi⟩ => ⟨_, tempF_of_range lo hi, ?_⟩, tempF_of_out_of_range⟩
  have near := rdiv_nearest (9 * c) (show (0 : Int) < 5 by norm_num)
  omega

section Compensation

variable {t h : Int}

/-- The closed band is left alone (R216, C5). -/
theorem humComp_of_band (band : 0 ≤ t ∧ t ≤ 80000) : humComp t h = some h :=
  if_neg (by omega)

theorem humComp_of_fits (out : t < 0 ∨ 80000 < t)
    (fits : -2 ^ 31 ≤ h + rdiv ((t - 25000) * 15) 100 ∧ h + rdiv ((t - 25000) * 15) 100 ≤ 2 ^ 31 - 1) :
    humComp t h = some (h + rdiv ((t - 25000) * 15) 100) :=
  (if_pos out).trans (if_pos ((fitsS32_iff _).mpr fits))

theorem humComp_of_overflow (out : t < 0 ∨ 80000 < t)
    (overflow : h + rdiv ((t - 25000) * 15) 100 < -2 ^ 31 ∨ 2 ^ 31 - 1 < h + rdiv ((t - 25000) * 15) 100) :
    humComp t h = none :=
  (if_pos out).trans (if_neg fun fits => by
    have range := (fitsS32_iff _).mp fits
    omega)

end Compensation

/-- Settles O56: the correction is `rdiv((t - 25000) * 15, 100)`. -/
theorem compensationIsRoundedOnce : Obligations.CompensationIsRoundedOnce := by
  refine fun t h => ⟨humComp_of_band, fun out => ⟨rdiv ((t - 25000) * 15) 100, ?_, ?_,
    humComp_of_fits out, humComp_of_overflow out⟩⟩
  all_goals
    have near := rdiv_nearest ((t - 25000) * 15) (show (0 : Int) < 100 by norm_num)
    omega

/-! ### The neighbours of a real number (R212) -/

section Neighbours

variable {x : ℝ} {lo hi r : ℤ}

/-- Either neighbour stays inside integer bounds of `x`. -/
theorem inFR_bounds {a b : ℤ} (near : InFR x lo hi r) (ha : (a : ℝ) ≤ x) (hb : x ≤ b) : a ≤ r ∧ r ≤ b := by
  obtain ⟨hr, -⟩ := near
  have floorLo : a ≤ ⌊x⌋ := Int.le_floor.mpr ha
  have ceilHi : ⌈x⌉ ≤ b := Int.ceil_le.mpr hb
  have floorLeCeil := Int.floor_le_ceil x
  rcases hr with rfl | rfl <;> omega

/-- Between integer bounds of the range, the floor is a neighbour in range. -/
theorem inFR_floor (hlo : (lo : ℝ) ≤ x) (hhi : x ≤ hi) : InFR x lo hi ⌊x⌋ :=
  ⟨.inl rfl, Int.le_floor.mpr hlo, (Int.floor_le_ceil x).trans (Int.ceil_le.mpr hhi)⟩

/-- Past the range there is no neighbour in it. -/
theorem not_inFR_of_past (past : (hi : ℝ) + 1 ≤ x) : ¬ InFR x lo hi r := by
  rintro ⟨hr, -, rhi⟩
  have floorLo : hi + 1 ≤ ⌊x⌋ := Int.le_floor.mpr (by exact_mod_cast past)
  have floorLeCeil := Int.floor_le_ceil x
  rcases hr with rfl | rfl <;> omega

end Neighbours

/-! ### SVP -/

/-- Whether SVP raises does not depend on the draw: it raises exactly if no draw gives a value (R212). -/
theorem svp_eq_none_iff (up : Bool) (t : Int) : svp up t = none ↔ ∀ r, ¬ ∃ up', svp up' t = some r := by
  unfold svp
  cases svpExact t with
  | none => simp
  | some x =>
    show roundExact .faithful up fitsU32 x = none ↔ ∀ r, ¬ ∃ up', roundExact .faithful up' fitsU32 x = some r
    simp only [roundExact_faithful]
    cases hf : fitsU32 x.floor <;> cases hc : fitsU32 x.ceil <;> simp [roundExact, hf, hc]

/-- The values SVP can return, away from the blow-up point, are the neighbours in range (R217). -/
theorem svp_eq_some_iff {t r : Int} (ht : t ≠ -235660) :
    (∃ up, svp up t = some r) ↔ InFR (svpReal t) 0 (2 ^ 32 - 1) r := by
  obtain ⟨e, he, hfloor, hceil, hle⟩ := svpExact_spec ht
  have draws : (∃ up, svp up t = some r) ↔ (r = e.floor ∨ r = e.ceil) ∧ 0 ≤ r ∧ r ≤ 2 ^ 32 - 1 := by
    rw [← fitsU32_iff, ← roundExact_faithful]
    simp only [svp, he]
    rfl
  rw [draws]
  rcases lt_or_ge (svpReal t) (2 ^ 33) with small | large
  · have floorLt : ⌊svpReal t⌋ < 2 ^ 33 := Int.floor_lt.mpr (by exact_mod_cast small)
    rw [hceil small, show e.floor = ⌊svpReal t⌋ by omega, InFR]
  · have floorGe : 2 ^ 33 ≤ ⌊svpReal t⌋ := Int.le_floor.mpr (by exact_mod_cast large)
    have past : ¬ InFR (svpReal t) 0 (2 ^ 32 - 1) r := not_inFR_of_past (by push_cast; linarith)
    refine iff_of_false (fun ⟨hr, _, rhi⟩ => ?_) past
    rcases hr with rfl | rfl <;> omega

/-- The exact pressure grows with the temperature above the blow-up point. -/
theorem svpReal_mono {t u : Int} (ht : -235660 < t) (htu : t ≤ u) : svpReal t ≤ svpReal u := by
  have tpos : (0 : ℝ) < (t : ℝ) + 235660 := by exact_mod_cast (show 0 < t + 235660 by omega)
  have tuReal : (t : ℝ) ≤ u := by exact_mod_cast htu
  rw [svpReal_eq_rpow ht, svpReal_eq_rpow (by omega)]
  refine Real.rpow_le_rpow_of_exponent_le (by norm_num) (sub_le_sub_left ?_ _)
  exact div_le_div_of_nonneg_left (by norm_num) tpos (by linarith)

/-- Below the blow-up point the exponent of ten is above 14 (R217). -/
theorem svpReal_past_of_below {t : Int} (ht : t < -235660) : (2 : ℝ) ^ 32 ≤ svpReal t := by
  have tneg : (t : ℝ) / 1000 + 235.66 < 0 := by
    have : (t : ℝ) < -235660 := by exact_mod_cast ht
    linarith
  have exponent : (8 : ℝ) ≤ 8.1332 - 1762.39 / ((t : ℝ) / 1000 + 235.66) := by
    linarith [div_neg_of_pos_of_neg (show (0 : ℝ) < 1762.39 by norm_num) tneg]
  calc (2 : ℝ) ^ 32 ≤ (10 : ℝ) ^ (8 : ℝ) * 10 ^ 6 := by norm_num
    _ ≤ svpReal t := mul_le_mul_of_nonneg_right
      (Real.rpow_le_rpow_of_exponent_le (by norm_num) exponent) (by norm_num)

theorem natCast_le_svpReal {t : Int} {n : Nat} (ht : t ≠ -235660)
    (h : cmpPow10 n (svpNum (t + 235660)) (svpDen (t + 235660)) = .lt) : n ≤ svpReal t := by
  rw [svp_reaches ht, compare_lt_iff_lt] at h
  exact h.le

theorem svpReal_le_natCast {t : Int} {n : Nat} (ht : t ≠ -235660)
    (h : cmpPow10 n (svpNum (t + 235660)) (svpDen (t + 235660)) = .gt) : svpReal t ≤ n := by
  rw [svp_reaches ht, compare_gt_iff_gt] at h
  exact h.le

/-- At the first temperature that raises, the pressure is past u32 (R224). -/
theorem svpReal_at_first_past : (2 : ℝ) ^ 32 ≤ svpReal 155962 := by
  exact_mod_cast natCast_le_svpReal (n := 2 ^ 32) (by norm_num) (by decide +kernel)

/-- At the last temperature with a result, the pressure is at most `2^32 - 1` (R224). -/
theorem svpReal_at_last : svpReal 155961 ≤ 4294967295 := by
  exact_mod_cast svpReal_le_natCast (n := 4294967295) (by norm_num) (by decide +kernel)

/-- The pressure at the lowest temperature of a code (R219). -/
theorem svpReal_at_lowest_code : 62950 ≤ svpReal (-46850) := by
  exact_mod_cast natCast_le_svpReal (t := -46850) (n := 62950) (by decide) (by decide +kernel)

/-- The pressure at the highest temperature of a code (R219). -/
theorem svpReal_at_highest_code : svpReal 128867 ≤ 1988240725 := by
  exact_mod_cast svpReal_le_natCast (n := 1988240725) (by norm_num) (by decide +kernel)

/-- SVP raises exactly at and below the blow-up point and from 155962 up, whatever is drawn (R224). -/
theorem svp_eq_none_iff_range (up : Bool) (t : Int) : svp up t = none ↔ t ≤ -235660 ∨ 155962 ≤ t := by
  rcases eq_or_ne t (-235660) with rfl | ht
  · exact iff_of_true rfl (.inl le_rfl)
  rw [svp_eq_none_iff]
  simp only [svp_eq_some_iff ht]
  rcases lt_or_ge t (-235659) with below | above
  · have past := svpReal_past_of_below (show t < -235660 by omega)
    exact iff_of_true (fun r => not_inFR_of_past (by push_cast; linarith)) (.inl (by omega))
  rcases lt_or_ge t 155962 with inside | high
  · have fits : svpReal t ≤ 4294967295 :=
      (svpReal_mono (by omega) (show t ≤ 155961 by omega)).trans svpReal_at_last
    have near : InFR (svpReal t) 0 (2 ^ 32 - 1) ⌊svpReal t⌋ :=
      inFR_floor (by exact_mod_cast (svpReal_pos ht).le) (by exact_mod_cast fits)
    exact iff_of_false (fun none => none _ near) (by omega)
  · have past := svpReal_at_first_past.trans (svpReal_mono (by norm_num) high)
    exact iff_of_true (fun r => not_inFR_of_past (by push_cast; linarith)) (.inr high)

/-- SVP raises at the blow-up point and where no neighbour fits, whatever is drawn (R212, R217). -/
theorem svp_eq_none_iff_inFR (up : Bool) (t : Int) :
    svp up t = none ↔ t = -235660 ∨ ∀ r, ¬ InFR (svpReal t) 0 (2 ^ 32 - 1) r := by
  rcases eq_or_ne t (-235660) with rfl | ht
  · exact iff_of_true rfl (.inl rfl)
  · simp only [svp_eq_none_iff, svp_eq_some_iff ht, ht, false_or]

/-- Settles O57. -/
theorem svpReturnsExactlyTheNeighbours : Obligations.SvpReturnsExactlyTheNeighbours := by
  refine fun t => ⟨fun r => ?_, ?_, ?_⟩
  · rcases eq_or_ne t (-235660) with rfl | ht
    · exact iff_of_false (fun ⟨_, h⟩ => nomatch h) (fun h => h.1 rfl)
    · simp only [svp_eq_some_iff ht, ne_eq, ht, not_false_eq_true, true_and]
  · simp only [svp_eq_none_iff_inFR, exists_const]
  · simp only [svp_eq_none_iff_range, exists_const]

/-! ### DEW -/

/-- An s32 and a u32 of positive product are positive. -/
theorem pos_of_mul_pos_u32 {h p : Int} (plo : 0 ≤ p) (pos : 0 < h * p) : 0 < h ∧ 0 < p := by
  have ppos : 0 < p := lt_of_le_of_ne plo (by rintro rfl; simp at pos)
  exact ⟨pos_of_mul_pos_left pos plo, ppos⟩

theorem mul_lt_of_s32_u32 {h p : Int} (hhi : h ≤ 2 ^ 31 - 1) (plo : 0 ≤ p) (phi : p ≤ 2 ^ 32 - 1) :
    h * p < 10 ^ 19 :=
  calc h * p ≤ (2 ^ 31 - 1) * (2 ^ 32 - 1) := Int.mul_le_mul hhi phi plo (by norm_num)
    _ < 10 ^ 19 := by norm_num

/-- The values DEW can return for a positive product are the neighbours in range (R218). -/
theorem dew_eq_some_iff {h p r : Int} (pos : 0 < h * p) (lt : h * p < 10 ^ 19) :
    (∃ up, dew up h p = some r) ↔ InFR (dewReal h p) (-2 ^ 31) (2 ^ 31 - 1) r := by
  obtain ⟨e, he, hfloor, hceil⟩ := dewExact_spec pos lt
  rw [InFR, ← hfloor, ← hceil, ← fitsS32_iff, ← roundExact_faithful]
  simp only [dew, he]
  rfl

/-- Settles O58. -/
theorem dewReturnsExactlyTheNeighbours : Obligations.DewReturnsExactlyTheNeighbours := by
  intro h p _ hhi plo phi
  rcases le_or_gt (h * p) 0 with dry | pos
  · simp [dew_of_not_pos _ dry, dry, not_lt.mpr dry]
  · obtain ⟨hpos, ppos⟩ := pos_of_mul_pos_u32 plo pos
    refine ⟨fun r => ?_, iff_of_false (fun ⟨up, raised⟩ => ?_) (not_le.mpr pos)⟩
    · rw [dew_eq_some_iff pos (mul_lt_of_s32_u32 hhi plo phi), and_iff_right pos]
    · obtain ⟨r, hr, -⟩ := dew_of_pos up hpos hhi ppos phi
      cases raised.symm.trans hr

/-- Settles O60: the ceiling of a number is at most the floor of one that is larger by 1. -/
theorem dewPointFollowsHumidity : Obligations.DewPointFollowsHumidity := by
  intro h1 h2 p r1 r2 up1 up2 hpos hle hhi ppos phi apart hr1 hr2
  have near1 := (dew_eq_some_iff (Int.mul_pos hpos ppos) (mul_lt_of_s32_u32 (by omega) ppos.le phi)).mp ⟨up1, hr1⟩
  have near2 :=
    (dew_eq_some_iff (Int.mul_pos (by omega : 0 < h2) ppos) (mul_lt_of_s32_u32 hhi ppos.le phi)).mp ⟨up2, hr2⟩
  calc r1 ≤ ⌈dewReal h1 p⌉ := (inFR_bounds near1 (Int.floor_le _) (Int.le_ceil _)).2
    _ ≤ ⌊dewReal h1 p⌋ + 1 := Int.ceil_le_floor_add_one _
    _ = ⌊dewReal h1 p + 1⌋ := (Int.floor_add_one _).symm
    _ ≤ ⌊dewReal h2 p⌋ := Int.floor_le_floor apart
    _ ≤ r2 := (inFR_bounds near2 (Int.floor_le _) (Int.le_ceil _)).1

/-! ### Measured inputs -/

/-- SVP of any code's temperature lies between the pressures at the two end codes (R219). -/
theorem svp_tempC (up : Bool) (raw : Raw) :
    ∃ p, svp up (tempC raw) = some p ∧ 62950 ≤ p ∧ p ≤ 1988240725 := by
  obtain ⟨tlo, thi⟩ := tempC_bounds raw
  obtain ⟨p, hp, -, near⟩ := svp_measured up tlo thi
  have low := svpReal_at_lowest_code.trans (svpReal_mono (by norm_num) tlo)
  have high := (svpReal_mono (by omega) thi).trans svpReal_at_highest_code
  exact ⟨p, hp, inFR_bounds near (by exact_mod_cast low) (by exact_mod_cast high)⟩

/-- A result of DEW lies where TEMPF has a value (R219). -/
theorem dew_range {h p r : Int} {up : Bool} (hhi : h ≤ 2 ^ 31 - 1) (plo : 0 ≤ p) (phi : p ≤ 2 ^ 32 - 1)
    (hr : dew up h p = some r) : -235660 ≤ r ∧ r ≤ 2 ^ 24 := by
  rcases le_or_gt (h * p) 0 with dry | pos
  · rw [dew_of_not_pos up dry] at hr
    cases hr
  · obtain ⟨hpos, ppos⟩ := pos_of_mul_pos_u32 plo pos
    obtain ⟨r', hr', -, range⟩ := dew_of_pos up hpos hhi ppos phi
    obtain rfl := Option.some.inj (hr.symm.trans hr')
    exact range

/-- Settles O59. -/
theorem measuredInputsStayInRange : Obligations.MeasuredInputsStayInRange := by
  refine ⟨fun rt rh => ?_, fun rt up => svp_tempC up rt, fun h p r up _ hhi plo phi hr => ?_⟩
  · obtain ⟨tlo, thi⟩ := tempC_bounds rt
    obtain ⟨hlo, hhi⟩ := humRaw_bounds rh
    exact humComp_measured tlo thi hlo hhi
  · obtain ⟨rlo, rhi⟩ := dew_range hhi plo phi hr
    exact ⟨_, tempF_eq_some rlo rhi⟩

end Sys2Proof.Proofs
end

section
/-! SUPPORT and PROOFS. The converter commands: a command of one code (O21, O23), of one temperature (O22, O27), the
compensation (O24), and the two with a draw (O25, O26). -/

namespace Sys2Proof.Proofs

open Sys2Proof.Machine Sys2Proof.Safety

/-! ### A command that converts a code -/

/-- The upper half of a word is its quotient by `2^16`. -/
theorem extract_high_eq_zero_iff (w : Word) : w.extractLsb' 16 16 = 0 ↔ w.toNat ≤ 0xFFFF := by
  have hlt := w.isLt
  rw [← BitVec.toNat_inj, BitVec.extractLsb'_toNat, Nat.shiftRight_eq_div_pow]
  show _ % 2 ^ 16 = 0 ↔ _
  omega

theorem raw16_of_high {w : Word} (h : 0xFFFF < w.toNat) : raw16 w = none :=
  if_neg fun zero => absurd ((extract_high_eq_zero_iff w).mp zero) (by omega)

theorem raw16_of_low {w : Word} (h : w.toNat ≤ 0xFFFF) : ∃ raw, raw16 w = some raw ∧ raw.toNat = w.toNat := by
  refine ⟨_, if_pos ((extract_high_eq_zero_iff w).mpr h), ?_⟩
  rw [BitVec.extractLsb'_toNat]
  simp only [Nat.shiftRight_zero]
  omega

/-- A command that converts the code in OPA refuses a wider operand and converts every other one, unmasked (R104). -/
theorem convertsCode_of_prog {i : Instr} {s : State} (value : Raw → Int)
    (hp : commandProg s i = some (operand (raw16 s.lOpa) fun raw => .finishOk (intWord (value raw)) 0)) :
    (0xFFFF < s.lOpa.toNat → RejectsArgument i s) ∧
    (s.lOpa.toNat ≤ 0xFFFF → AtStep s [] →
      ∃ raw : Raw, raw.toNat = s.lOpa.toNat ∧ exec i s = .next (succeeded (intWord (value raw)) 0 s)) := by
  refine ⟨fun high => ?_, fun low hs => ?_⟩
  · rw [raw16_of_high high] at hp
    exact exec_failed_atStep hp rfl
  · obtain ⟨raw, hraw, code⟩ := raw16_of_low low
    rw [hraw] at hp
    exact ⟨raw, code, exec_succeeded_atStep hp rfl hs⟩

/-- Settles O21. -/
theorem convTempCConvertsTheUnmaskedCode : Obligations.ConvTempCConvertsTheUnmaskedCode := by
  intro s
  obtain ⟨high, low⟩ := convertsCode_of_prog (i := .convTempC 0) (s := s) tempC rfl
  refine ⟨rfl, fun _ => rejectsArgument_of_ne_zero s rfl, high, fun hle hs => ?_⟩
  obtain ⟨raw, code, hexec⟩ := low hle hs
  rw [hexec, ← code]
  rfl

/-- Settles O23. -/
theorem convHumRawConvertsTheUnmaskedCode : Obligations.ConvHumRawConvertsTheUnmaskedCode := by
  intro s
  obtain ⟨high, low⟩ := convertsCode_of_prog (i := .convHumRaw 0) (s := s) humRaw rfl
  refine ⟨rfl, fun _ => rejectsArgument_of_ne_zero s rfl, high, fun hle hs => ?_⟩
  obtain ⟨raw, code, hexec⟩ := low hle hs
  rw [hexec, ← code]
  rfl

/-! ### A command that converts an integer -/

section Conversions

variable {i : Instr} {s : State} {o : Option Int}

theorem exec_conversion_some {v : Int}
    (hp : commandProg s i = some (conversion o fun v => .finishOk (intWord v) 0)) (ho : o = some v)
    (hs : AtStep s []) : exec i s = .next (succeeded (BitVec.ofInt 32 v) 0 s) := by
  subst ho
  exact exec_succeeded_atStep hp rfl hs

theorem exec_conversion_none
    (hp : commandProg s i = some (conversion o fun v => .finishOk (intWord v) 0)) (ho : o = none)
    (hs : AtStep s []) : exec i s = .next (failed .mathDomainError s) := by
  subst ho
  exact exec_failed_atStep hp rfl hs

end Conversions

/-- A command that is TEMPF of OPA raises outside TEMPF's range and converts inside it (R214). -/
theorem convertsToFahrenheit_of_prog {i : Instr} {s : State}
    (hp : commandProg s i = some (conversion (tempF (milli s.lOpa)) fun v => .finishOk (intWord v) 0)) :
    (1193028693 < s.lOpa.toInt ∨ s.lOpa.toInt < -1193064249 → AtStep s [] →
      exec i s = .next (failed .mathDomainError s)) ∧
    (-1193064249 ≤ s.lOpa.toInt → s.lOpa.toInt ≤ 1193028693 → AtStep s [] →
      exec i s = .next (succeeded (BitVec.ofInt 32 (rdiv (9 * s.lOpa.toInt) 5 + 32000)) 0 s)) :=
  ⟨fun out => exec_conversion_none hp (tempF_of_out_of_range out.symm),
    fun lo hi => exec_conversion_some hp (tempF_of_range lo hi)⟩

/-- Settles O22. -/
theorem convTempFConvertsOrRaises : Obligations.ConvTempFConvertsOrRaises := fun s =>
  ⟨rfl, fun _ => rejectsArgument_of_ne_zero s rfl, convertsToFahrenheit_of_prog rfl⟩

/-- Settles O27: the pseudocode is CONV_TEMP_F's. -/
theorem convDewFConvertsOrRaises : Obligations.ConvDewFConvertsOrRaises := fun s =>
  ⟨rfl, fun _ => rejectsArgument_of_ne_zero s rfl, convertsToFahrenheit_of_prog rfl⟩

/-- Settles O24: HUMCOMP of OPA and OPB, by the band and the range of the sum. -/
theorem convHumCompCompensatesOutsideTheBand : Obligations.ConvHumCompCompensatesOutsideTheBand := by
  intro s
  have hp : commandProg s (.convHumComp 0) =
      some (conversion (humComp s.lOpa.toInt s.lOpb.toInt) fun v => .finishOk (intWord v) 0) := rfl
  refine ⟨rfl, fun _ => rejectsArgument_of_ne_zero s rfl, fun hs => ⟨fun band => ?_, ?_⟩⟩
  · rw [exec_conversion_some hp (humComp_of_band band) hs, BitVec.ofInt_toInt]
  · rintro out v rfl
    exact ⟨fun fits => exec_conversion_some hp (humComp_of_fits out (by omega)) hs,
      fun overflow => exec_conversion_none hp (humComp_of_overflow out (by omega)) hs⟩

/-! ### The commands with a draw -/

theorem run_progSvp_none {t : Int} (k : Int → Prog) {s : State} (h : svp (Config.roundUp s.draws) t = none) :
    (progSvp t k).run s = failed .mathDomainError { s with draws := s.draws + 1 } := by
  rw [progSvp, run_draw, h]
  rfl

/-- Settles O25: one draw, and SVP raises or finds a neighbour whatever is drawn. -/
theorem convSvpReturnsANeighbourOfThePressure : Obligations.ConvSvpReturnsANeighbourOfThePressure := by
  intro s
  have hexec (hs : AtStep s []) :
      exec (.convSvp 0) s = .next ((progSvp s.lOpa.toInt fun p => .finishOk (intWord p) 0).run s) :=
    exec_atStep (p := progSvp _ _) rfl hs
  refine ⟨rfl, fun _ => rejectsArgument_of_ne_zero s rfl, fun out hs => ⟨s.draws + 1, ?_⟩, fun lo hi hs => ?_⟩
  · rw [hexec hs, run_progSvp_none _ ((svp_eq_none_iff_range _ _).mpr out)]
  · obtain ⟨r, hr⟩ := Option.ne_none_iff_exists'.mp
      (mt (svp_eq_none_iff_range (Config.roundUp s.draws) s.lOpa.toInt).mp (by omega))
    refine ⟨r, s.draws + 1, (svp_eq_some_iff (by omega)).mp ⟨_, hr⟩, ?_⟩
    rw [hexec hs, run_progSvp _ hr]
    rfl

/-- Settles O26: one draw, and DEW of OPB and OPC raises or finds a neighbour whatever is drawn. -/
theorem convDewCReturnsANeighbourOfTheDewPoint : Obligations.ConvDewCReturnsANeighbourOfTheDewPoint := by
  intro s
  have hexec (hs : AtStep s []) : exec (.convDewC 0) s =
      .next ((progDew s.lOpb.toInt s.lOpc.toNat fun d => .finishOk (intWord d) 0).run s) :=
    exec_atStep (p := progDew _ _ _) rfl hs
  refine ⟨rfl, fun _ => rejectsArgument_of_ne_zero s rfl, fun dry hs => ⟨s.draws + 1, ?_⟩, fun humid hpc hs => ?_⟩
  · have notPos : s.lOpb.toInt * (s.lOpc.toNat : Int) ≤ 0 := by
      rcases dry with dry | zero
      · exact Int.mul_nonpos_of_nonpos_of_nonneg dry (Int.natCast_nonneg _)
      · simp [zero]
    rw [hexec hs, run_progDew_none _ (dew_of_not_pos _ notPos)]
  · have hhi : s.lOpb.toInt < 2 ^ 31 := BitVec.toInt_lt
    have ppos : 0 < s.lOpc.toNat := Nat.pos_of_ne_zero fun zero => hpc (BitVec.eq_of_toNat_eq zero)
    have phi := s.lOpc.isLt
    obtain ⟨r, hr, near, -⟩ := dew_of_pos (h := s.lOpb.toInt) (p := s.lOpc.toNat) (Config.roundUp s.draws) humid
      (by omega) (by omega) (by omega)
    refine ⟨r, s.draws + 1, near, ?_⟩
    rw [hexec hs, run_progDew _ hr]
    rfl

end Sys2Proof.Proofs
end

section
/-! SUPPORT and PROOFS. The reset input in any state (O39): its step, STATUS after it, and the late answer, which finds
no transaction outstanding. -/

namespace Sys2Proof.Proofs

open Sys2Proof.Machine Sys2Proof.Safety

section Inputs

variable {s : State} {rest : List Input}

theorem step_reset (h : s.inputs = .reset :: rest) : step s = .next (resetInput { s with inputs := rest }) := by
  simp [step, systemStep, h]

/-- An answer that finds the port idle is discarded (R291). -/
theorem step_answer_idle {e : Bool} {b : Byte} (h : s.inputs = .answer e b :: rest) (hport : s.port = .idle) :
    step s = .next { s with inputs := rest } := by
  rw [step_answer h]
  simp [answerTxn, hport]

end Inputs

/-- STATUS is zero after the reset input (R43): no flag is up and the code is NONE. -/
@[simp] theorem statusWord_resetInput (s : State) : statusWord (resetInput s) = 0 := by
  simp [statusWord, errBits]

/-- Settles O39: the step is `resetInput`, and it leaves the port idle for a late answer. -/
theorem resetAbandonsTheRunningCommand : Obligations.ResetAbandonsTheRunningCommand := by
  intro s rest hin
  refine ⟨resetInput { s with inputs := rest }, step_reset hin, ?_⟩
  have discarded (e : Bool) (b : Byte) (more : List Input) (late : rest = .answer e b :: more) :
      step (resetInput { s with inputs := rest }) =
        .next { resetInput { s with inputs := rest } with inputs := more } :=
    step_answer_idle late (resetInput_port _)
  simpa using discarded

end Sys2Proof.Proofs
end
